-- ==== Sys2Proof/Word.lean ====
section
/-!
DEFINITION. The machine's word and byte types (spec 00_scope.md R5, R9: unsigned, bit 0 the least significant).
-/

namespace Sys2Proof

/-- A 32-bit unsigned word (00_scope.md, glossary). -/
abbrev Word := BitVec 32

/-- An 8-bit unsigned byte (00_scope.md, glossary). -/
abbrev Byte := BitVec 8

end Sys2Proof
end

