-- ==== Sys2Proof/Syntax.lean ====
section
/-!
DEFINITION. The instruction set: one constructor per row of spec/opcode_table.json (27 rows, three formats), and the three
formats' encoded words (30_encoding.md R80).
-/

namespace Sys2Proof

/-- One constructor per row of the opcode table (30_encoding.md R82, R84, R92). The bit that NOP and CLEAR do not test is
kept as an operand, so that no bit of a command byte is lost (log 12). A host write carries the value written. -/
inductive Instr where
  /-- CMD `000x0000` (R181). -/
  | nop (untested : Bool)
  /-- CMD `000m0001`: m = MSGP, 1 when the host supplies a message buffer (R182). -/
  | start (msgp : Bool)
  /-- CMD `000x0010` (R183). -/
  | clear (untested : Bool)
  /-- PHASE 0: no micro-operation is selected (R195). -/
  | rest
  /-- PHASE 1 (R190). -/
  | check
  /-- PHASE 2 (R150). -/
  | init
  /-- PHASE 3 (R120). -/
  | cnt
  /-- PHASE 4 (R121). -/
  | bzero
  /-- PHASE 5 (R122). -/
  | bcopy
  /-- PHASE 6 (R123). -/
  | bmark
  /-- PHASE 7 (R124). -/
  | blen
  /-- PHASE 8 (R140). -/
  | wload
  /-- PHASE 9 (R141). -/
  | wexp
  /-- PHASE 10 (R151). -/
  | seed
  /-- PHASE 11 (R152). -/
  | round
  /-- PHASE 12 (R153). -/
  | accum
  /-- PHASE 13 (R125). -/
  | next
  /-- PHASE 14 (R170). -/
  | final
  /-- PHASE 15, reserved (R85). -/
  | reserved15
  /-- HACC 000: read CMD (R189). -/
  | rdcmd
  /-- HACC 001: read STATUS (R187). -/
  | rdstatus
  /-- HACC 010: read LEN (R186). -/
  | rdlen
  /-- HACC 011: read DIGEST (R188). -/
  | rddigest
  /-- HACC 100: write CMD, the byte is decoded as a command (R180). -/
  | wrcmd (c : BitVec 8)
  /-- HACC 101: write STATUS, ignored (R189). -/
  | wrstatus (v : BitVec 16)
  /-- HACC 110: write LEN (R185). -/
  | wrlen (v : BitVec 64)
  /-- HACC 111: write DIGEST, ignored (R189). -/
  | wrdigest (v : BitVec 256)
  deriving DecidableEq, Repr

/-- What a byte written to CMD selects (30_encoding.md R82, R83). -/
inductive Command where
  | nop (untested : Bool)
  | start (msgp : Bool)
  | clear (untested : Bool)
  /-- A byte that matches no row of the command map. -/
  | illegal (c : BitVec 8)
  deriving DecidableEq, Repr

/-- The three formats (30_encoding.md R80). Nothing in a pattern tells them apart: each lives in its own place. -/
inductive Format where
  | cmd
  | phase
  | hacc
  deriving DecidableEq, Repr

/-- An encoded word in its place: a command byte, the PHASE code, or a host access's tag with the value on its data lines
(ignored by a read; log 11). -/
inductive Coded where
  | cmd (c : BitVec 8)
  | phase (p : BitVec 4)
  | hacc (tag : BitVec 3) (data : BitVec 256)
  deriving DecidableEq, Repr

end Sys2Proof
end

