-- ==== Sys2Proof/Decode.lean ====
section
/-!
DEFINITION. The decoder of the three formats, the encoder, and the opcode table as data (30_encoding.md R80 to R85, R92).
-/

namespace Sys2Proof

/-- Why a word is no instruction. -/
inductive DecodeError where
  /-- A command byte outside the command map, 250 of the 256 (30_encoding.md R83). -/
  | illegalCommand (c : BitVec 8)
  deriving DecidableEq, Repr

/-- The decoder's answer: an instruction, or a rejection by name. -/
inductive Decoded where
  | ok (i : Instr)
  | rejected (e : DecodeError)
  deriving DecidableEq, Repr

/-! ## Decoding -/

/-- A command byte, in the decode order of 45_host_sequencer.md R180. Bit 4 is START's MSGP (30_encoding.md R81). -/
def decodeCommand (c : BitVec 8) : Command :=
  if c &&& 0xEF#8 = 0x00#8 then .nop (c.getLsbD 4)
  else if c &&& 0xEF#8 = 0x01#8 then .start (c.getLsbD 4)
  else if c &&& 0xEF#8 = 0x02#8 then .clear (c.getLsbD 4)
  else .illegal c

/-- The PHASE code map (30_encoding.md R84); 15, the one code left, is the reserved one (R85). -/
def decodePhase (p : BitVec 4) : Instr :=
  match p.toNat with
  | 0 => .rest
  | 1 => .check
  | 2 => .init
  | 3 => .cnt
  | 4 => .bzero
  | 5 => .bcopy
  | 6 => .bmark
  | 7 => .blen
  | 8 => .wload
  | 9 => .wexp
  | 10 => .seed
  | 11 => .round
  | 12 => .accum
  | 13 => .next
  | 14 => .final
  | _ => .reserved15

/-- A host access: tag `{WR, REG[1:0]}` (30_encoding.md R92). A written register takes its own width's low bits of the
data lines (log 11). -/
def decodeAccess (tag : BitVec 3) (data : BitVec 256) : Instr :=
  match tag.getLsbD 2, (tag.extractLsb' 0 2).toNat with
  | false, 0 => .rdcmd
  | false, 1 => .rdstatus
  | false, 2 => .rdlen
  | false, _ => .rddigest
  | true, 0 => .wrcmd (data.setWidth 8)
  | true, 1 => .wrstatus (data.setWidth 16)
  | true, 2 => .wrlen (data.setWidth 64)
  | true, _ => .wrdigest data

/-- A command as an instruction; an illegal one is none. -/
def Command.toDecoded : Command → Decoded
  | .nop x => .ok (.nop x)
  | .start m => .ok (.start m)
  | .clear x => .ok (.clear x)
  | .illegal c => .rejected (.illegalCommand c)

/-- The decoder, total on the words of every format. -/
def decode : Coded → Decoded
  | .cmd c => (decodeCommand c).toDecoded
  | .phase p => .ok (decodePhase p)
  | .hacc tag data => .ok (decodeAccess tag data)

/-! ## Encoding -/

/-- Bit 4 of a command byte. -/
def commandBit (m : Bool) : BitVec 8 := if m then 0x10#8 else 0x00#8

/-- The encoder, from the tables of 30_encoding.md R82, R84, R92. A read's data lines are zero. -/
def encode : Instr → Coded
  | .nop x => .cmd (0x00#8 ||| commandBit x)
  | .start m => .cmd (0x01#8 ||| commandBit m)
  | .clear x => .cmd (0x02#8 ||| commandBit x)
  | .rest => .phase 0#4
  | .check => .phase 1#4
  | .init => .phase 2#4
  | .cnt => .phase 3#4
  | .bzero => .phase 4#4
  | .bcopy => .phase 5#4
  | .bmark => .phase 6#4
  | .blen => .phase 7#4
  | .wload => .phase 8#4
  | .wexp => .phase 9#4
  | .seed => .phase 10#4
  | .round => .phase 11#4
  | .accum => .phase 12#4
  | .next => .phase 13#4
  | .final => .phase 14#4
  | .reserved15 => .phase 15#4
  | .rdcmd => .hacc 0#3 0#256
  | .rdstatus => .hacc 1#3 0#256
  | .rdlen => .hacc 2#3 0#256
  | .rddigest => .hacc 3#3 0#256
  | .wrcmd c => .hacc 4#3 (c.setWidth 256)
  | .wrstatus v => .hacc 5#3 (v.setWidth 256)
  | .wrlen v => .hacc 6#3 (v.setWidth 256)
  | .wrdigest v => .hacc 7#3 v

/-! ## The opcode table as data -/

/-- A row of spec/opcode_table.json. -/
structure Row where
  format : Format
  width : Nat
  matchBits : BitVec 8
  mask : BitVec 8
  deriving DecidableEq, Repr

/-- The table's row of an instruction. -/
def Instr.row : Instr → Row
  | .nop _ => ⟨.cmd, 8, 0x00#8, 0xEF#8⟩
  | .start _ => ⟨.cmd, 8, 0x01#8, 0xEF#8⟩
  | .clear _ => ⟨.cmd, 8, 0x02#8, 0xEF#8⟩
  | .rest => ⟨.phase, 4, 0x0#8, 0xF#8⟩
  | .check => ⟨.phase, 4, 0x1#8, 0xF#8⟩
  | .init => ⟨.phase, 4, 0x2#8, 0xF#8⟩
  | .cnt => ⟨.phase, 4, 0x3#8, 0xF#8⟩
  | .bzero => ⟨.phase, 4, 0x4#8, 0xF#8⟩
  | .bcopy => ⟨.phase, 4, 0x5#8, 0xF#8⟩
  | .bmark => ⟨.phase, 4, 0x6#8, 0xF#8⟩
  | .blen => ⟨.phase, 4, 0x7#8, 0xF#8⟩
  | .wload => ⟨.phase, 4, 0x8#8, 0xF#8⟩
  | .wexp => ⟨.phase, 4, 0x9#8, 0xF#8⟩
  | .seed => ⟨.phase, 4, 0xA#8, 0xF#8⟩
  | .round => ⟨.phase, 4, 0xB#8, 0xF#8⟩
  | .accum => ⟨.phase, 4, 0xC#8, 0xF#8⟩
  | .next => ⟨.phase, 4, 0xD#8, 0xF#8⟩
  | .final => ⟨.phase, 4, 0xE#8, 0xF#8⟩
  | .reserved15 => ⟨.phase, 4, 0xF#8, 0xF#8⟩
  | .rdcmd => ⟨.hacc, 3, 0x0#8, 0x7#8⟩
  | .rdstatus => ⟨.hacc, 3, 0x1#8, 0x7#8⟩
  | .rdlen => ⟨.hacc, 3, 0x2#8, 0x7#8⟩
  | .rddigest => ⟨.hacc, 3, 0x3#8, 0x7#8⟩
  | .wrcmd _ => ⟨.hacc, 3, 0x4#8, 0x7#8⟩
  | .wrstatus _ => ⟨.hacc, 3, 0x5#8, 0x7#8⟩
  | .wrlen _ => ⟨.hacc, 3, 0x6#8, 0x7#8⟩
  | .wrdigest _ => ⟨.hacc, 3, 0x7#8, 0x7#8⟩

/-- The format of an encoded word. -/
def Coded.format : Coded → Format
  | .cmd _ => .cmd
  | .phase _ => .phase
  | .hacc _ _ => .hacc

/-- The bits of an encoded word that the opcode table numbers. -/
def Coded.bits : Coded → BitVec 8
  | .cmd c => c
  | .phase p => p.setWidth 8
  | .hacc tag _ => tag.setWidth 8

/-! ## The host's table words -/

/-- The place a table word of `nbits` bits is read in. The three formats overlap as numbers, and only the place tells them
apart (30_encoding.md R80): 1 to 3 bits are a host access's tag, 4 to 7 bits a PHASE code, 8 bits a command byte when it
is a legal one and else, where it fits, a PHASE code. DESIGN CHOICE: log 13. Above the format's width every bit must be
0. -/
def tableWord (nbits w : Nat) : Option Coded :=
  if nbits ≤ 3 then (if w < 8 then some (.hacc (BitVec.ofNat 3 w) 0#256) else none)
  else if nbits < 8 then (if w < 16 then some (.phase (BitVec.ofNat 4 w)) else none)
  else if w < 256 then
    match decodeCommand (BitVec.ofNat 8 w) with
    | .illegal _ => if w < 16 then some (.phase (BitVec.ofNat 4 w)) else none
    | .nop _ | .start _ | .clear _ => some (.cmd (BitVec.ofNat 8 w))
  else none

/-- An accepted instruction, or nothing. -/
def Decoded.toOption : Decoded → Option Instr
  | .ok i => some i
  | .rejected _ => none

/-- The instruction the decoder reads from a table word (log 13). -/
def decodeTableWord (nbits w : Nat) : Option Instr :=
  match tableWord nbits w with
  | some c => (decode c).toOption
  | none => none

end Sys2Proof
end

