-- ==== Sys2Proof/Machine/Functions.lean ====
section
/-!
DEFINITION. The pure functions of 40_functions.md, and the one way the model fills a register file. None reads or writes
state, none has a flag or an exception (R114).
-/

namespace Sys2Proof.Machine

/-- The file of `n` elements whose element `i` is `f i`. -/
def tabulate {α : Type} (n : Nat) (f : Fin n → α) : Vector α n :=
  ⟨(List.ofFn f).toArray, by simp⟩

/-! ## Word arithmetic -/

/-- 32-bit wraparound addition; the carry out is dropped (R100). -/
def add32 (x y : Word) : Word := x + y

/-- Rotate right, by the formula of R101. Every rule asks for 1 <= n <= 31 only (log 24). -/
def rotr (x : Word) (n : Nat) : Word := (x >>> n) ||| (x <<< (32 - n))

/-- Logical right shift (R102). -/
def shr (x : Word) (n : Nat) : Word := x >>> n

/-- R104. -/
def Ch (x y z : Word) : Word := (x &&& y) ^^^ (~~~x &&& z)

/-- R105. -/
def Maj (x y z : Word) : Word := (x &&& y) ^^^ (x &&& z) ^^^ (y &&& z)

/-- R106. -/
def Sig0 (x : Word) : Word := rotr x 2 ^^^ rotr x 13 ^^^ rotr x 22

/-- R107. -/
def Sig1 (x : Word) : Word := rotr x 6 ^^^ rotr x 11 ^^^ rotr x 25

/-- R108. -/
def sig0 (x : Word) : Word := rotr x 7 ^^^ rotr x 18 ^^^ shr x 3

/-- R109. -/
def sig1 (x : Word) : Word := rotr x 17 ^^^ rotr x 19 ^^^ shr x 10

/-! ## Bytes and words, big-endian -/

/-- The word whose first byte is `b0` (R110; 20_memory.md R62). -/
def be32 (b0 b1 b2 b3 : Byte) : Word := b0 ++ b1 ++ b2 ++ b3

/-- Byte `k` of a word, byte 0 the most significant: `w[31-8k : 24-8k]` (R111; 20_memory.md R64). -/
def byteOf (w : Word) (k : Nat) : Byte := w.extractLsb' (24 - 8 * k) 8

/-- Byte `k` of a 64-bit number, byte 0 the most significant: `L[63-8k : 56-8k]` (R112; 20_memory.md R63). -/
def be64 (L : BitVec 64) (k : Nat) : Byte := L.extractLsb' (56 - 8 * k) 8

/-! ## One schedule word and one round, on values -/

/-- The schedule recurrence on the four words it reads (42_schedule_expander.md R141). -/
def scheduleSum (w2 w7 w15 w16 : Word) : Word :=
  add32 (add32 (add32 (sig1 w2) w7) (sig0 w15)) w16

/-- T1 of a round (43_compression.md R152). -/
def roundT1 (e f g h k w : Word) : Word :=
  add32 (add32 (add32 (add32 h (Sig1 e)) (Ch e f g)) k) w

/-- T2 of a round (43_compression.md R152). -/
def roundT2 (a b c : Word) : Word := add32 (Sig0 a) (Maj a b c)

end Sys2Proof.Machine
end

