-- ==== Sys2Proof/Machine/State.lean ====
section
/-!
DEFINITION. The machine's state as plain data: the whole of 10_state.md R20 for one CORE, the message memory beside it,
and the model's own record of what the host does next. INVENTORY.md, State, names the rule of each field.
-/

namespace Sys2Proof.Machine

/-- The message memory: (offset, byte) cells, offsets strictly rising and below 2^61. An offset that is not listed is one
whose read the platform does not answer (20_memory.md R60; 60_exceptions.md R229; log 8). -/
abbrev Memory := List Host.Cell

/-- One turn of an agent outside the CORE, or of the sequencer (20_memory.md R74; log 1). -/
inductive Turn where
  /-- The sequencer takes its step. -/
  | sequencer
  /-- `HostRead(r)`: the host reads register number `r`. -/
  | hostRead (r : Nat)
  /-- `HostWrite(r, v)`: the host writes `v` to register number `r`. -/
  | hostWrite (r : Nat) (v : BitVec 256)
  /-- The owner of the message sets what the platform answers at an offset: a byte, or nothing. -/
  | message (addr : BitVec 61) (answer : Option Byte)
  /-- The input `rst` (70_reset_and_hazards.md R240). -/
  | reset
  deriving DecidableEq, Repr

/-- What a host read returned, one whole register at its own width (10_state.md R43). -/
inductive HostValue where
  | cmd (v : BitVec 8)
  | status (v : BitVec 16)
  | len (v : BitVec 64)
  | digest (v : BitVec 256)
  /-- A read of a register number of 4 or above (93 U9; log 6). -/
  | unmapped (v : BitVec 256)
  deriving DecidableEq, Repr

/-- The registers carry the spec's names. -/
structure State where
  /-- Hash state (R21). -/
  H : Vector Word 8
  /-- Working variables a..h (R22). -/
  V : Vector Word 8
  /-- Message schedule (R23). -/
  W : Vector Word 64
  /-- Block buffer (R24). -/
  B : Vector Byte 64
  /-- Digest (R25). -/
  D : Vector Byte 32
  /-- Message length in bytes (R26). -/
  LEN : BitVec 64
  /-- Number of blocks (R27). -/
  N : BitVec 56
  /-- Index of the current block (R28). -/
  I : BitVec 56
  /-- Message bytes consumed (R29). -/
  OFF : BitVec 61
  /-- Round index (R32). -/
  T : BitVec 7
  /-- Message bytes copied into the current block (R33). -/
  NCOPY : BitVec 7
  /-- The marker byte has been written in this run (R34). -/
  MARKED : Bool
  /-- The host supplied a message buffer (R35). -/
  MSGP : Bool
  /-- The sequencer's position (R36). -/
  PHASE : BitVec 4
  /-- A digest is ready (R37). -/
  DONE : Bool
  /-- The last command ended in an error (R38). -/
  ERR : Bool
  /-- Which error (R38). -/
  ERRCODE : BitVec 2
  /-- Something the host sent was dropped (R39). -/
  REJ : Bool
  /-- The message memory, owned by the host (R46, R60). -/
  msg : Memory
  /-- Model's own: what moves next, oldest first; the sequencer when empty (log 1). -/
  turns : List Turn
  /-- Model's own: the value the last host read returned (log 10). -/
  lastRead : Option HostValue
  /-- Model's own: how many free values have been drawn (log 5). -/
  fresh : Nat
  deriving DecidableEq, Repr

/-- Reasons to stop with a fault. There is none: the CORE's three errors are flags of STATUS, after which it goes on
(60_exceptions.md R210, R215, R216), and an agent with no step leaves the state as it is (log 3, log 27). -/
inductive Fault where
  deriving DecidableEq, Repr

/-- Reasons to refuse an instruction. -/
inductive Refusal where
  /-- Raised only by an arm of `exec` that has no meaning yet; safe. No arm of this model raises it. -/
  | notModelled (mnemonic : String)
  deriving DecidableEq, Repr

/-- The state right after reset (10_state.md R48; 70_reset_and_hazards.md R240). PHASE, DONE, ERR, ERRCODE, REJ, MSGP and
LEN are 0 by R48. The datapath registers H, V, W, B, D, N, I, OFF, T, NCOPY and MARKED are unspecified there and zero
here: DESIGN CHOICE, unsafe, log 2. Nothing is in message memory (log 8) and no agent but the sequencer moves (log 14). -/
def State.reset : State where
  H := Vector.replicate 8 0#32
  V := Vector.replicate 8 0#32
  W := Vector.replicate 64 0#32
  B := Vector.replicate 64 0#8
  D := Vector.replicate 32 0#8
  LEN := 0#64
  N := 0#56
  I := 0#56
  OFF := 0#61
  T := 0#7
  NCOPY := 0#7
  MARKED := false
  MSGP := false
  PHASE := 0#4
  DONE := false
  ERR := false
  ERRCODE := 0#2
  REJ := false
  msg := []
  turns := []
  lastRead := none
  fresh := 0

end Sys2Proof.Machine
end

