-- ==== Sys2Proof/Machine/Ops.lean ====
section
/-!
DEFINITION. The shared operations: the message memory, moving the sequencer, error entry and what clears it, dropping what a
busy CORE is sent, answering the host, reset, and the turns.
-/

namespace Sys2Proof.Machine

/-! ## Message memory (20_memory.md R60; log 8) -/

/-- What the platform answers at an offset: the byte listed there, or nothing (60_exceptions.md R229). -/
def Memory.read : Memory → Nat → Option Byte
  | [], _ => none
  | (c, x) :: rest, a => if c = a then some x else Memory.read rest a

/-- The cell at an offset, or none. -/
def Memory.cellOf (a : Nat) : Option Byte → Memory
  | some b => [(a, b)]
  | none => []

/-- Sets what the platform answers at an offset. Nothing is what an unlisted offset answers, so setting nothing removes the
cell. -/
def Memory.write : Memory → Nat → Option Byte → Memory
  | [], a, v => Memory.cellOf a v
  | (c, x) :: rest, a, v =>
    if a < c then Memory.cellOf a v ++ (c, x) :: rest
    else if a = c then Memory.cellOf a v ++ rest
    else (c, x) :: Memory.write rest a v

/-- Every listed offset is at least `lo` and below 2^61, and the offsets rise strictly. -/
def Memory.risesFrom (lo : Nat) : Memory → Bool
  | [] => true
  | (c, _) :: rest => decide (lo ≤ c) && decide (c < 2 ^ 61) && Memory.risesFrom (c + 1) rest

/-- The canonical form of the message memory. -/
def Memory.wf (m : Memory) : Bool := Memory.risesFrom 0 m

/-- `MemRead(off + k, 1)` for `k`, `k + 1`, ... , `n` of them in increasing order; nothing when one of them is not answered
(20_memory.md R68; 60_exceptions.md R229). The offset is 61 bits (30_encoding.md R87). -/
def readFrom (m : Memory) (off : BitVec 61) (k : Nat) : Nat → Option (List Byte)
  | 0 => some []
  | n + 1 =>
    match m.read (off + BitVec.ofNat 61 k).toNat with
    | none => none
    | some b =>
      match readFrom m off (k + 1) n with
      | none => none
      | some bs => some (b :: bs)

/-! ## Updates of the state -/

/-- `PHASE <- p`: the sequencer's next micro-operation (10_state.md R36). -/
def State.goto (s : State) (p : BitVec 4) : State := { s with PHASE := p }

/-- Error entry, `raise X` with code `n` (60_exceptions.md R216): nothing else is saved or changed. -/
def State.raise (s : State) (n : BitVec 2) : State :=
  { s with PHASE := 0#4, DONE := false, ERR := true, ERRCODE := n }

/-- What ends an error or a finished run (60_exceptions.md R219): there is no return instruction, an accepted START and CLEAR
clear the result flags. -/
def State.clearResult (s : State) : State :=
  { s with DONE := false, ERR := false, ERRCODE := 0#2 }

/-- A busy CORE drops what the host sent and remembers that it did (10_state.md R39; 60_exceptions.md R214). -/
def State.drop (s : State) : State := { s with REJ := true }

/-- The host receives the value of its read (log 10). -/
def State.answer (s : State) (v : HostValue) : State := { s with lastRead := some v }

/-- A free value has been drawn (log 5). -/
def State.drawn (s : State) : State := { s with fresh := s.fresh + 1 }

/-- The input `rst` as one atomic action (70_reset_and_hazards.md R240, R242): the control state and LEN at their reset
values. The datapath registers are unspecified from then on and keep what they held (93 U5; R254; log 4). What lies outside
the CORE is untouched (log 20). -/
def State.resetInput (s : State) : State :=
  { s with PHASE := 0#4, DONE := false, ERR := false, ERRCODE := 0#2, REJ := false, MSGP := false, LEN := 0#64 }

/-- The message's owner sets what is answered at an offset (20_memory.md R76; log 9). -/
def State.setAnswer (s : State) (a : BitVec 61) (v : Option Byte) : State :=
  { s with msg := s.msg.write a.toNat v }

/-! ## Turns (log 1) -/

/-- Which agent moves next; with nothing listed, the sequencer. -/
def State.turn (s : State) : Turn :=
  match s.turns with
  | [] => .sequencer
  | t :: _ => t

/-- The state once the next turn has been taken from the list. -/
def State.popTurn (s : State) : State := { s with turns := s.turns.tail }

end Sys2Proof.Machine
end

