-- ==== Sys2Proof/Machine/Command.lean ====
section
/-!
DEFINITION. The host commands (45_host_sequencer.md R181 to R184).
-/

namespace Sys2Proof.Machine

/-- NOP does nothing in every state and does not set REJ (R181). -/
def execNop (_ : Bool) (s : State) : Host.Outcome State Fault Refusal := .next s

/-- START (R182): accepted only at REST, else dropped with REJ. -/
def execStart (m : Bool) (s : State) : Host.Outcome State Fault Refusal :=
  if s.PHASE = 0#4 then .next ({ s.clearResult with MSGP := m }.goto 1#4) else .next s.drop

/-- CLEAR (R183): REST and every status flag cleared, in every state. LEN is kept; the datapath registers are not written
(10_state.md R50) and nothing may be assumed of them afterwards (93 U5; log 4). -/
def execClear (_ : Bool) (s : State) : Host.Outcome State Fault Refusal :=
  .next ({ s.clearResult with REJ := false, MSGP := false }.goto 0#4)

/-- A byte that selects no command (R184): ILLEGAL_CMD at REST, dropped with REJ when busy. -/
def illegalCommand (s : State) : Host.Outcome State Fault Refusal :=
  if s.PHASE = 0#4 then .next (s.raise 3#2) else .next s.drop

end Sys2Proof.Machine
end

