-- ==== Sys2Proof/Config.lean ====
section
/-!
DEFINITION. The free values: results the spec leaves open. Each is an opaque constant applied to the counter `fresh` of
State, so every draw may differ and nothing can be proved of any of them.
The open parameters REG_MAP, MSG_BASE and NINST (92_eei_decisions.md) are read by no rule and have no constant here
(log 15).
-/

namespace Sys2Proof

/-- The 256-bit value a read of DIGEST returns while DONE = 0 (45_host_sequencer.md R188; 93 U4). DESIGN CHOICE, safe:
log 5. -/
opaque Config.freeDigest : Nat → BitVec 256

/-- The value a read of a host register number of 4 or above returns (45_host_sequencer.md R189; 93 U9). DESIGN CHOICE,
safe: log 6. -/
opaque Config.freeUnmapped : Nat → BitVec 256

/-- The word ROUND would take for K[T] when T >= 64, where the table has no entry (43_compression.md R152: never reached).
DESIGN CHOICE, safe: log 7. -/
opaque Config.freeRoundConstant : Nat → Word

/-- The word ROUND would take for W[T] when T >= 64, where the file has no entry (43_compression.md R152: never reached).
DESIGN CHOICE, safe: log 7. -/
opaque Config.freeScheduleWord : Nat → Word

end Sys2Proof
end

