-- ==== Sys2Proof/Machine/Operands.lean ====
section
/-!
DEFINITION. Operand assembly (30_encoding.md R87): the quantities the micro-operations form from LEN, OFF and T. Nothing is
sign-extended.
-/

namespace Sys2Proof.Machine

/-- `floor(LEN / 64)`, LEN[60:6], 55 bits (41_padding_block_counter.md R120; 40_functions.md R113). -/
def lenQuot (s : State) : BitVec 55 := s.LEN.extractLsb' 6 55

/-- `LEN mod 64`, LEN[5:0] (R120). -/
def lenRem (s : State) : BitVec 6 := s.LEN.extractLsb' 0 6

/-- How many message bytes BCOPY copies, `min(LEN - OFF, 64)` (R122). `LEN - OFF >= 0` in every run (10_state.md R29); where
it is not, the count is 0 (log 17). -/
def copyCount (s : State) : Nat := min (s.LEN.toNat - s.OFF.toNat) 64

/-- The message length in bits, `LEN * 8` as a 64-bit number (R124). -/
def bitLength (s : State) : BitVec 64 := s.LEN <<< 3

/-- K[T] (43_compression.md R152); free where the table has no entry, which no run reaches (log 7). -/
def roundConstant (s : State) : Word :=
  if h : s.T.toNat < 64 then K[s.T.toNat] else Config.freeRoundConstant s.fresh

/-- W[T] (R152); free where the file has no entry, which no run reaches (log 7). -/
def roundWord (s : State) : Word :=
  if h : s.T.toNat < 64 then s.W[s.T.toNat] else Config.freeScheduleWord s.fresh

/-- Element `t` of a schedule file. WEXP reads indices 0..61 only (42_schedule_expander.md R141), so the value outside the
file is never used. -/
def wordAt (W : Vector Word 64) (t : Nat) : Word := if h : t < 64 then W[t] else 0#32

/-- The word WEXP writes at `t` (R141). -/
def scheduleStep (W : Vector Word 64) (t : Nat) : Word :=
  scheduleSum (wordAt W (t - 2)) (wordAt W (t - 7)) (wordAt W (t - 15)) (wordAt W (t - 16))

/-- The loop of WEXP (R141): `n` words from index `t` on, in increasing order, each seeing the words written before it. -/
def expandFrom : Nat → Nat → Vector Word 64 → Vector Word 64
  | 0, _, W => W
  | n + 1, t, W => expandFrom n (t + 1) (tabulate 64 fun i => if i.val = t then scheduleStep W t else W[i.val])

/-- V after a round with T1 and T2 (R152): eight simultaneous writes, all from the old values. -/
def shiftRound (V : Vector Word 8) (T1 T2 : Word) : Vector Word 8 :=
  #v[add32 T1 T2, V[0], V[1], V[2], add32 V[3] T1, V[4], V[5], V[6]]

/-- V after the round with constant `k` and schedule word `w` (R152). -/
def compressRound (V : Vector Word 8) (k w : Word) : Vector Word 8 :=
  shiftRound V (roundT1 V[4] V[5] V[6] V[7] k w) (roundT2 V[0] V[1] V[2])

end Sys2Proof.Machine
end

