-- ==== Sys2Proof/Machine/Compression.lean ====
section
/-!
DEFINITION. CMP, the compression engine (43_compression.md).
-/

namespace Sys2Proof.Machine

/-- INIT (R150): H <- IV. -/
def execInit (s : State) : Host.Outcome State Fault Refusal := .next ({ s with H := IV }.goto 3#4)

/-- SEED (R151): V <- H, T <- 0. -/
def execSeed (s : State) : Host.Outcome State Fault Refusal :=
  .next ({ s with V := s.H, T := 0#7 }.goto 11#4)

/-- ROUND (R152): one round at index T. The successor is chosen on the value of T before the round (90_conflicts.md C8). Where
T has no K and W entry, which no run reaches, the two words are free and one draw is counted (log 7). -/
def execRound (s : State) : Host.Outcome State Fault Refusal :=
  .next ({ s with
    V := compressRound s.V (roundConstant s) (roundWord s)
    T := s.T + 1#7
    fresh := if s.T.toNat < 64 then s.fresh else s.fresh + 1 }.goto (if s.T = 63#7 then 12#4 else 11#4))

/-- ACCUM (R153): H <- H + V word by word, all eight in one step. -/
def execAccum (s : State) : Host.Outcome State Fault Refusal :=
  .next ({ s with H := tabulate 8 fun j => add32 s.H[j.val] s.V[j.val] }.goto 13#4)

end Sys2Proof.Machine
end

