-- ==== Sys2Proof/Machine/Finalizer.lean ====
section
/-!
DEFINITION. FIN, the digest finalizer (44_finalizer.md).
-/

namespace Sys2Proof.Machine

/-- FINAL (R170): D[4j + k] <- byte k of H[j], DONE <- 1, REST, in one step. -/
def execFinal (s : State) : Host.Outcome State Fault Refusal :=
  .next ({ s with D := tabulate 32 fun i => byteOf s.H[i.val / 4] (i.val % 4), DONE := true }.goto 0#4)

end Sys2Proof.Machine
end

