-- ==== Sys2Proof/Machine/Flags.lean ====
section
/-!
DEFINITION. The views of the status flags. The CORE has no arithmetic flag (10_state.md section 5; 40_functions.md R114).
-/

namespace Sys2Proof.Machine

/-- BUSY is PHASE != 0 and is not stored (10_state.md R40). -/
def State.busy (s : State) : Bool := decide (s.PHASE ≠ 0#4)

/-- The 16-bit STATUS word: reserved, PHASE, reserved, ERRCODE, REJ, ERR, DONE, BUSY, from bit 15 down (10_state.md R41). -/
def State.status (s : State) : BitVec 16 :=
  0#4 ++ s.PHASE ++ 0#2 ++ s.ERRCODE ++ BitVec.ofBool s.REJ ++ BitVec.ofBool s.ERR ++ BitVec.ofBool s.DONE ++
    BitVec.ofBool s.busy

/-- The bytes `b0, b1, ...` as a number with `b0` the most significant. -/
def bytesToNumber (bs : List Byte) : BitVec 256 :=
  bs.foldl (fun acc b => (acc <<< 8) ||| b.setWidth 256) 0#256

/-- DIGEST = `{D[0], D[1], ..., D[31]}`, D[0] in bits 255:248 (10_state.md R25). -/
def State.digest (s : State) : BitVec 256 := bytesToNumber s.D.toList

/-- The level output `busy` (60_exceptions.md R221). -/
def State.busyOut (s : State) : Bool := s.status.getLsbD 0

/-- The level output `done` (R221). -/
def State.doneOut (s : State) : Bool := s.status.getLsbD 1

/-- The level output `err` (R221). -/
def State.errOut (s : State) : Bool := s.status.getLsbD 2

end Sys2Proof.Machine
end

