-- ==== Sys2Proof/Machine/HostAccess.lean ====
section
/-!
DEFINITION. The host accesses to the four registers (45_host_sequencer.md R180, R185 to R189). What a read returns is left in
`lastRead` (log 10).
-/

namespace Sys2Proof.Machine

/-- RDCMD returns 0x00 (R189; 10_state.md R42). -/
def execRdcmd (s : State) : Host.Outcome State Fault Refusal := .next (s.answer (.cmd 0x00#8))

/-- RDSTATUS returns the STATUS word and clears nothing (R187). -/
def execRdstatus (s : State) : Host.Outcome State Fault Refusal := .next (s.answer (.status s.status))

/-- RDLEN returns LEN (R186). -/
def execRdlen (s : State) : Host.Outcome State Fault Refusal := .next (s.answer (.len s.LEN))

/-- RDDIGEST returns the digest while DONE = 1, and any value, a new one each time, while DONE = 0 (R188; 93 U4; log 5). -/
def execRddigest (s : State) : Host.Outcome State Fault Refusal :=
  if s.DONE then .next (s.answer (.digest s.digest))
  else .next (s.answer (.digest (Config.freeDigest s.fresh))).drawn

/-- WRCMD: the byte is decoded and the selected command performed at once, as one atomic action (R180). CMD stores nothing
(10_state.md R42). -/
def execWrcmd (c : BitVec 8) (s : State) : Host.Outcome State Fault Refusal :=
  match decodeCommand c with
  | .nop x => execNop x s
  | .start m => execStart m s
  | .clear x => execClear x s
  | .illegal _ => illegalCommand s

/-- WRSTATUS is ignored and does not set REJ (R189). -/
def execWrstatus (_ : BitVec 16) (s : State) : Host.Outcome State Fault Refusal := .next s

/-- WRLEN: stored at REST, any value; dropped with REJ when busy (R185). -/
def execWrlen (v : BitVec 64) (s : State) : Host.Outcome State Fault Refusal :=
  if s.PHASE = 0#4 then .next { s with LEN := v } else .next s.drop

/-- WRDIGEST is ignored and does not set REJ (R189). -/
def execWrdigest (_ : BitVec 256) (s : State) : Host.Outcome State Fault Refusal := .next s

/-- A read of a register number of 4 or above returns any value, a new one each time (R189; 93 U9; log 6). -/
def readUnmapped (s : State) : State := (s.answer (.unmapped (Config.freeUnmapped s.fresh))).drawn

/-- A write to a register number of 4 or above is ignored (R189; 93 U9). -/
def writeUnmapped (s : State) : State := s

end Sys2Proof.Machine
end

