-- ==== Sys2Proof/Machine/Padding.lean ====
section
/-!
DEFINITION. PAD, the padding unit and block counter (41_padding_block_counter.md).
-/

namespace Sys2Proof.Machine

/-- CNT (R120): the block count N, and the per-run counters. -/
def execCnt (s : State) : Host.Outcome State Fault Refusal :=
  .next ({ s with
    N := (lenQuot s).setWidth 56 + 1#56 + (if 56 ≤ (lenRem s).toNat then 1#56 else 0#56)
    I := 1#56
    OFF := 0#61
    MARKED := false }.goto 4#4)

/-- BZERO (R121). -/
def execBzero (s : State) : Host.Outcome State Fault Refusal :=
  .next ({ s with B := tabulate 64 fun _ => 0x00#8 }.goto 5#4)

/-- BCOPY (R122): the next `min(LEN - OFF, 64)` message bytes into B[0..]. While one of its reads is not answered BCOPY has no
step and the sequencer stays in it (60_exceptions.md R229; 93 U15): its turn leaves the state as it is, DESIGN CHOICE, safe,
log 3. -/
def execBcopy (s : State) : Host.Outcome State Fault Refusal :=
  match readFrom s.msg s.OFF 0 (copyCount s) with
  | none => .next s
  | some bytes =>
    .next ({ s with
      B := tabulate 64 fun k => bytes.getD k.val s.B[k.val]
      OFF := s.OFF + BitVec.ofNat 61 (copyCount s)
      NCOPY := BitVec.ofNat 7 (copyCount s) }.goto 6#4)

/-- BMARK (R123): the marker byte, in the first block of the run that has a free byte. -/
def execBmark (s : State) : Host.Outcome State Fault Refusal :=
  if s.MARKED = false ∧ s.NCOPY.toNat < 64 then
    .next ({ s with
      B := tabulate 64 fun k => if k.val = s.NCOPY.toNat then 0x80#8 else s.B[k.val]
      MARKED := true }.goto 7#4)
  else .next (s.goto 7#4)

/-- BLEN (R124): the message length in bits, in the final block only. -/
def execBlen (s : State) : Host.Outcome State Fault Refusal :=
  if s.I = s.N then
    .next ({ s with B := tabulate 64 fun k => if 56 ≤ k.val then be64 (bitLength s) (k.val - 56) else s.B[k.val] }.goto 8#4)
  else .next (s.goto 8#4)

/-- NEXT (R125): the next block, or the finalizer. -/
def execNext (s : State) : Host.Outcome State Fault Refusal :=
  if s.I = s.N then .next (s.goto 14#4) else .next ({ s with I := s.I + 1#56 }.goto 4#4)

end Sys2Proof.Machine
end

