-- ==== Sys2Proof/Machine/Schedule.lean ====
section
/-!
DEFINITION. MSX, the message-schedule expander (42_schedule_expander.md).
-/

namespace Sys2Proof.Machine

/-- WLOAD (R140): W[0..15] from the block's big-endian words; W[16..63] are not touched. -/
def execWload (s : State) : Host.Outcome State Fault Refusal :=
  .next ({ s with
    W := tabulate 64 fun t =>
      if h : t.val < 16 then be32 s.B[4 * t.val] s.B[4 * t.val + 1] s.B[4 * t.val + 2] s.B[4 * t.val + 3]
      else s.W[t.val] }.goto 9#4)

/-- WEXP (R141): W[16..63] by the recurrence, in increasing order. -/
def execWexp (s : State) : Host.Outcome State Fault Refusal :=
  .next ({ s with W := expandFrom 48 16 s.W }.goto 10#4)

end Sys2Proof.Machine
end

