-- ==== Sys2Proof/Machine/Sequencer.lean ====
section
/-!
DEFINITION. The sequencer's own codes: REST, CHECK and the reserved code (45_host_sequencer.md R190, R195; 30_encoding.md R85).
-/

namespace Sys2Proof.Machine

/-- REST: the sequencer has no step and waits for a command (R195). Its turn leaves the state as it is: DESIGN CHOICE, safe,
log 3. -/
def execRest (s : State) : Host.Outcome State Fault Refusal := .next s

/-- CHECK (R190): LEN_RANGE, then NO_BUFFER (60_exceptions.md R211, R212, R218), else on to INIT. -/
def execCheck (s : State) : Host.Outcome State Fault Refusal :=
  if 2 ^ 61 ≤ s.LEN.toNat then .next (s.raise 1#2)
  else if s.LEN ≠ 0#64 ∧ s.MSGP = false then .next (s.raise 2#2)
  else .next (s.goto 2#4)

/-- The reserved code: no sequencer step, stuck, BUSY stays 1, and CLEAR and reset still act (30_encoding.md R85; 93 U8). The
sequencer's turn leaves the state as it is: DESIGN CHOICE, safe, log 3. -/
def execReserved15 (s : State) : Host.Outcome State Fault Refusal := .next s

end Sys2Proof.Machine
end

