-- ==== Sys2Proof/Machine/Dispatch.lean ====
section
/-!
DEFINITION. The meaning of every instruction, one arm per constructor.
-/

namespace Sys2Proof.Machine

def exec (i : Instr) (s : State) : Host.Outcome State Fault Refusal :=
  match i with
  | .nop x => Sys2Proof.Machine.execNop x s
  | .start m => Sys2Proof.Machine.execStart m s
  | .clear x => Sys2Proof.Machine.execClear x s
  | .rest => Sys2Proof.Machine.execRest s
  | .check => Sys2Proof.Machine.execCheck s
  | .init => Sys2Proof.Machine.execInit s
  | .cnt => Sys2Proof.Machine.execCnt s
  | .bzero => Sys2Proof.Machine.execBzero s
  | .bcopy => Sys2Proof.Machine.execBcopy s
  | .bmark => Sys2Proof.Machine.execBmark s
  | .blen => Sys2Proof.Machine.execBlen s
  | .wload => Sys2Proof.Machine.execWload s
  | .wexp => Sys2Proof.Machine.execWexp s
  | .seed => Sys2Proof.Machine.execSeed s
  | .round => Sys2Proof.Machine.execRound s
  | .accum => Sys2Proof.Machine.execAccum s
  | .next => Sys2Proof.Machine.execNext s
  | .final => Sys2Proof.Machine.execFinal s
  | .reserved15 => Sys2Proof.Machine.execReserved15 s
  | .rdcmd => Sys2Proof.Machine.execRdcmd s
  | .rdstatus => Sys2Proof.Machine.execRdstatus s
  | .rdlen => Sys2Proof.Machine.execRdlen s
  | .rddigest => Sys2Proof.Machine.execRddigest s
  | .wrcmd c => Sys2Proof.Machine.execWrcmd c s
  | .wrstatus v => Sys2Proof.Machine.execWrstatus v s
  | .wrlen v => Sys2Proof.Machine.execWrlen v s
  | .wrdigest v => Sys2Proof.Machine.execWrdigest v s

end Sys2Proof.Machine
end

