-- ==== Sys2Proof/Machine/Fetch.lean ====
section
/-!
DEFINITION. Selecting what runs next. The CORE fetches no instructions (20_memory.md R75): the sequencer's next one is the
PHASE register, a host access brings its own (30_encoding.md R80).
-/

namespace Sys2Proof.Machine

/-- The tag of a host access to register number `r < 4` (30_encoding.md R92). -/
def accessTag (write : Bool) (r : Nat) : BitVec 3 := BitVec.ofBool write ++ BitVec.ofNat 2 r

/-- The encoded word a turn puts before the CORE; none for a turn that selects no row of the opcode table. -/
def turnWord (t : Turn) (s : State) : Option Coded :=
  match t with
  | .sequencer => some (.phase s.PHASE)
  | .hostRead r => if r < 4 then some (.hacc (accessTag false r) 0#256) else none
  | .hostWrite r v => if r < 4 then some (.hacc (accessTag true r) v) else none
  | .message _ _ => none
  | .reset => none

/-- The instruction a turn runs: its word, decoded. -/
def turnInstr (t : Turn) (s : State) : Option Instr :=
  match turnWord t s with
  | some w => (decode w).toOption
  | none => none

/-- What a turn that runs no instruction does: an access to a register number of 4 or above (45_host_sequencer.md R189), the
message's owner (20_memory.md R76), the reset input (70_reset_and_hazards.md R240). The sequencer's turn always runs an
instruction and is not met here. -/
def turnEffect (t : Turn) (s : State) : State :=
  match t with
  | .sequencer => s
  | .hostRead _ => readUnmapped s
  | .hostWrite _ _ => writeUnmapped s
  | .message a v => s.setAnswer a v
  | .reset => s.resetInput

/-- The state in which the next step runs the given word: PHASE holds the code, or the host makes the access; a command byte
is written to CMD (register 0). -/
def placeWord (w : Coded) (s : State) : State :=
  match w with
  | .cmd c => { s with turns := .hostWrite 0 (c.setWidth 256) :: s.turns }
  | .phase p => { s.goto p with turns := .sequencer :: s.turns }
  | .hacc tag data =>
    let r := (tag.extractLsb' 0 2).toNat
    { s with turns := (if tag.getLsbD 2 then .hostWrite r data else .hostRead r) :: s.turns }

end Sys2Proof.Machine
end

