-- ==== Sys2Proof/Machine/Step.lean ====
section
/-!
DEFINITION. One step of the machine: one turn, atomic (20_memory.md R74; 45_host_sequencer.md R195).
-/

namespace Sys2Proof.Machine

/-- The next turn is taken from the list and runs the instruction it selects, or has its own effect. -/
def step (s : State) : Host.Outcome State Fault Refusal :=
  match turnInstr s.turn s with
  | some i => exec i s.popTurn
  | none => .next (turnEffect s.turn s.popTurn)

/-- `s` with a table word placed where the next step takes it from (log 14). A word the table has no reading of leaves `s` as
it is. -/
def State.withFetchWord (s : State) (nbits w : Nat) : State :=
  match tableWord nbits w with
  | some c => placeWord c s
  | none => s

end Sys2Proof.Machine
end

