-- ==== Sys2Proof/Machine/WholeHash.lean ====
section
/-!
DEFINITION. The whole-hash level (00_scope.md R8): Block, Compress and Hash as pure functions of the message bytes, written
apart from the micro-operations (41_padding_block_counter.md R130; 43_compression.md R155; 45_host_sequencer.md R200).
-/

namespace Sys2Proof.Machine

/-- `N = floor(len/64) + 1 + (1 if len mod 64 >= 56 else 0)` (R120). -/
def blockCount (len : Nat) : Nat := len / 64 + 1 + (if 56 ≤ len % 64 then 1 else 0)

/-- Byte `k` of block `i`, 1-indexed, of the padded message (R130). -/
def blockByte (msg : List Byte) (i k : Nat) : Byte :=
  let p := 64 * (i - 1) + k
  if p < msg.length then msg.getD p 0x00#8
  else if p = msg.length then 0x80#8
  else if i = blockCount msg.length ∧ 56 ≤ k then be64 (BitVec.ofNat 64 (msg.length * 8)) (k - 56)
  else 0x00#8

/-- `Block(msg, len, i)` (R130). -/
def block (msg : List Byte) (i : Nat) : List Byte := (List.range 64).map (blockByte msg i)

/-- The sixteen big-endian words of a block of bytes (42_schedule_expander.md R140). -/
def blockWords (bs : List Byte) : List Word :=
  (List.range 16).map fun t =>
    be32 (bs.getD (4 * t) 0#8) (bs.getD (4 * t + 1) 0#8) (bs.getD (4 * t + 2) 0#8) (bs.getD (4 * t + 3) 0#8)

/-- The schedule grown word by word, the next word from the four it reads (R141). -/
def growSchedule : Nat → List Word → List Word
  | 0, ws => ws
  | n + 1, ws =>
    let t := ws.length
    growSchedule n (ws ++ [scheduleSum (ws.getD (t - 2) 0#32) (ws.getD (t - 7) 0#32) (ws.getD (t - 15) 0#32)
      (ws.getD (t - 16) 0#32)])

/-- The eight working variables by name (43_compression.md R152). -/
structure Working where
  a : Word
  b : Word
  c : Word
  d : Word
  e : Word
  f : Word
  g : Word
  h : Word
  deriving DecidableEq, Repr

/-- One round as the text of R152 writes it: `h=g; g=f; f=e; e=d+T1; d=c; c=b; b=a; a=T1+T2`. -/
def Working.round (x : Working) (k w : Word) : Working :=
  let T1 := roundT1 x.e x.f x.g x.h k w
  let T2 := roundT2 x.a x.b x.c
  { a := add32 T1 T2, b := x.a, c := x.b, d := x.c, e := add32 x.d T1, f := x.e, g := x.f, h := x.g }

/-- Word by word addition (R153). -/
def Working.add (x y : Working) : Working :=
  { a := add32 x.a y.a, b := add32 x.b y.b, c := add32 x.c y.c, d := add32 x.d y.d,
    e := add32 x.e y.e, f := add32 x.f y.f, g := add32 x.g y.g, h := add32 x.h y.h }

/-- Eight words of a register file under their names a..h (00_scope.md R11). -/
def Working.ofVector (X : Vector Word 8) : Working :=
  { a := X[0], b := X[1], c := X[2], d := X[3], e := X[4], f := X[5], g := X[6], h := X[7] }

/-- The eight words as a list, a first. -/
def Working.toList (x : Working) : List Word := [x.a, x.b, x.c, x.d, x.e, x.f, x.g, x.h]

/-- `Compress(Hin, Bk)` (R155): sixty-four rounds over the schedule of the block, added to `Hin`. -/
def compress (Hin : Working) (bs : List Byte) : Working :=
  let W := growSchedule 48 (blockWords bs)
  Hin.add ((List.zip K.toList W).foldl (fun x kw => x.round kw.1 kw.2) Hin)

/-- The hash state after the first `i` blocks, starting from IV (R200). -/
def hashState (msg : List Byte) : Nat → Working
  | 0 => Working.ofVector IV
  | i + 1 => compress (hashState msg i) (block msg (i + 1))

/-- `Hash(msg, len)` (R200), with `len` the length of the list: the bytes of the eight words, each most significant first. -/
def wholeHash (msg : List Byte) : List Byte :=
  (hashState msg (blockCount msg.length)).toList.flatMap fun w => (List.range 4).map (byteOf w)

end Sys2Proof.Machine
end

