-- ==== Sys2Proof/Safety.lean ====
section
/-!
DEFINITION. The terms that claims use: the registers by name, what an operation leaves unchanged, which operation may write
which register, runs, and the invariant of every reachable state.
-/

namespace Sys2Proof.Machine

/-! ## Registers by name and frames -/

/-- The state of one CORE by name (10_state.md R20). -/
inductive Reg where
  | H
  | V
  | W
  | B
  | D
  | LEN
  | N
  | I
  | OFF
  | T
  | NCOPY
  | MARKED
  | MSGP
  | PHASE
  | DONE
  | ERR
  | ERRCODE
  | REJ
  deriving DecidableEq, Repr

/-- The two states agree on a register. -/
def Reg.same : Reg → State → State → Prop
  | .H, s, t => t.H = s.H
  | .V, s, t => t.V = s.V
  | .W, s, t => t.W = s.W
  | .B, s, t => t.B = s.B
  | .D, s, t => t.D = s.D
  | .LEN, s, t => t.LEN = s.LEN
  | .N, s, t => t.N = s.N
  | .I, s, t => t.I = s.I
  | .OFF, s, t => t.OFF = s.OFF
  | .T, s, t => t.T = s.T
  | .NCOPY, s, t => t.NCOPY = s.NCOPY
  | .MARKED, s, t => t.MARKED = s.MARKED
  | .MSGP, s, t => t.MSGP = s.MSGP
  | .PHASE, s, t => t.PHASE = s.PHASE
  | .DONE, s, t => t.DONE = s.DONE
  | .ERR, s, t => t.ERR = s.ERR
  | .ERRCODE, s, t => t.ERRCODE = s.ERRCODE
  | .REJ, s, t => t.REJ = s.REJ

/-- Every register but those listed is unchanged, every byte of message memory reads as before, and the turns to come are the
same. -/
def Kept (written : List Reg) (s t : State) : Prop :=
  (∀ r : Reg, r ∉ written → r.same s t) ∧ (∀ a : Nat, t.msg.read a = s.msg.read a) ∧ t.turns = s.turns

/-- `Kept`, and the host is told nothing and no free value is drawn. -/
def Frame (written : List Reg) (s t : State) : Prop :=
  Kept written s t ∧ t.lastRead = s.lastRead ∧ t.fresh = s.fresh

/-- The registers an operation may write: the column "written by" of the table of 10_state.md R20, read by operation. A
command byte may write what the command it selects may write. REJ's "rejected command" includes a rejected WRLEN (R39). -/
def mayWrite : Instr → List Reg
  | .nop _ => []
  | .start _ => [.MSGP, .PHASE, .DONE, .ERR, .ERRCODE, .REJ]
  | .clear _ => [.MSGP, .PHASE, .DONE, .ERR, .ERRCODE, .REJ]
  | .rest => []
  | .check => [.PHASE, .ERR, .ERRCODE]
  | .init => [.H, .PHASE]
  | .cnt => [.N, .I, .OFF, .MARKED, .PHASE]
  | .bzero => [.B, .PHASE]
  | .bcopy => [.B, .OFF, .NCOPY, .PHASE]
  | .bmark => [.B, .MARKED, .PHASE]
  | .blen => [.B, .PHASE]
  | .wload => [.W, .PHASE]
  | .wexp => [.W, .PHASE]
  | .seed => [.V, .T, .PHASE]
  | .round => [.V, .T, .PHASE]
  | .accum => [.H, .PHASE]
  | .next => [.I, .PHASE]
  | .final => [.D, .DONE, .PHASE]
  | .reserved15 => []
  | .rdcmd => []
  | .rdstatus => []
  | .rdlen => []
  | .rddigest => []
  | .wrcmd _ => [.MSGP, .PHASE, .DONE, .ERR, .ERRCODE, .REJ]
  | .wrstatus _ => []
  | .wrlen _ => [.LEN, .REJ]
  | .wrdigest _ => []

/-! ## Runs -/

/-- `k` steps, stopping where a step does not answer a next state. -/
def runSteps : Nat → State → Host.Outcome State Fault Refusal
  | 0, s => .next s
  | k + 1, s =>
    match step s with
    | .next t => runSteps k t
    | .fault r => .fault r
    | .refused r => .refused r

/-- The message memory answers the bytes of `bytes` at the offsets 0, 1, ... (20_memory.md R60). -/
def Answers (m : Memory) (bytes : List Byte) : Prop :=
  ∀ k : Nat, ∀ b : Byte, bytes[k]? = some b → m.read k = some b

/-! ## The invariant -/

/-- What holds of every state a run reaches, whatever the host does. -/
structure Inv (s : State) : Prop where
  /-- The message memory is in its canonical form. -/
  memory : s.msg.wf = true
  /-- The reserved code is never entered (30_encoding.md R85). -/
  phase_legal : s.PHASE.toNat ≤ 14
  /-- 10_state.md R37. -/
  done_at_rest : s.DONE = true → s.PHASE = 0#4 ∧ s.ERR = false
  /-- 30_encoding.md R86. -/
  err_at_rest : s.ERR = true → s.PHASE = 0#4
  /-- 10_state.md R38. -/
  errcode_iff : s.ERR = true ↔ s.ERRCODE ≠ 0#2
  /-- A run past CHECK has met the preconditions (45_host_sequencer.md R190). -/
  preconditions : 2 ≤ s.PHASE.toNat → s.LEN.toNat < 2 ^ 61 ∧ (s.LEN = 0#64 ∨ s.MSGP = true)
  /-- 10_state.md R27, R28. -/
  block_index : 4 ≤ s.PHASE.toNat → s.N.toNat = blockCount s.LEN.toNat ∧ 1 ≤ s.I.toNat ∧ s.I.toNat ≤ s.N.toNat
  /-- Before BCOPY of block I (10_state.md R29). -/
  consumed_before : 4 ≤ s.PHASE.toNat → s.PHASE.toNat ≤ 5 → s.OFF.toNat = min (64 * (s.I.toNat - 1)) s.LEN.toNat
  /-- After BCOPY of block I (41_padding_block_counter.md R130). -/
  consumed_after : 6 ≤ s.PHASE.toNat → s.PHASE.toNat ≤ 13 → s.OFF.toNat = min (64 * s.I.toNat) s.LEN.toNat
  /-- NCOPY is what BCOPY of block I took (10_state.md R33). -/
  copied : 6 ≤ s.PHASE.toNat → s.PHASE.toNat ≤ 13 →
    min (64 * (s.I.toNat - 1)) s.LEN.toNat + s.NCOPY.toNat = s.OFF.toNat
  /-- Before BMARK, the marker has been written exactly when its block is past (41_padding_block_counter.md R128). -/
  marked_before : 4 ≤ s.PHASE.toNat → s.PHASE.toNat ≤ 6 → (s.MARKED = true ↔ s.LEN.toNat / 64 + 1 < s.I.toNat)
  /-- After BMARK, exactly when its block is reached (R128). -/
  marked_after : 7 ≤ s.PHASE.toNat → s.PHASE.toNat ≤ 13 → (s.MARKED = true ↔ s.LEN.toNat / 64 + 1 ≤ s.I.toNat)
  /-- FINAL runs after the last block, all message bytes consumed and the marker written (44_finalizer.md R170). -/
  at_final : s.PHASE.toNat = 14 → s.I = s.N ∧ s.OFF.toNat = s.LEN.toNat ∧ s.MARKED = true
  /-- ROUND never runs with T = 64 (43_compression.md R152). -/
  round_index : s.PHASE.toNat = 11 → s.T.toNat ≤ 63
  /-- T holds 64 from the last ROUND on (10_state.md R32). -/
  rounds_done : 12 ≤ s.PHASE.toNat → s.T = 64#7

/-! ## The transition table -/

/-- The rows of the transition table that are micro-operations (45_host_sequencer.md R196): from PHASE, under the row's
condition on the state before, to PHASE, with the row's effect on control state. -/
def SequencerRow (s t : State) : Prop :=
  (s.PHASE = 1#4 ∧ 2 ^ 61 ≤ s.LEN.toNat ∧ t.PHASE = 0#4 ∧ t.ERR = true ∧ t.ERRCODE = 1#2) ∨
  (s.PHASE = 1#4 ∧ s.LEN.toNat < 2 ^ 61 ∧ s.LEN ≠ 0#64 ∧ s.MSGP = false ∧
    t.PHASE = 0#4 ∧ t.ERR = true ∧ t.ERRCODE = 2#2) ∨
  (s.PHASE = 1#4 ∧ s.LEN.toNat < 2 ^ 61 ∧ (s.LEN = 0#64 ∨ s.MSGP = true) ∧ t.PHASE = 2#4) ∨
  (s.PHASE = 2#4 ∧ t.PHASE = 3#4) ∨
  (s.PHASE = 3#4 ∧ t.PHASE = 4#4 ∧ t.I = 1#56) ∨
  (s.PHASE = 4#4 ∧ t.PHASE = 5#4) ∨
  (s.PHASE = 5#4 ∧ t.PHASE = 6#4) ∨
  (s.PHASE = 6#4 ∧ t.PHASE = 7#4) ∨
  (s.PHASE = 7#4 ∧ t.PHASE = 8#4) ∨
  (s.PHASE = 8#4 ∧ t.PHASE = 9#4) ∨
  (s.PHASE = 9#4 ∧ t.PHASE = 10#4) ∨
  (s.PHASE = 10#4 ∧ t.PHASE = 11#4 ∧ t.T = 0#7) ∨
  (s.PHASE = 11#4 ∧ s.T.toNat < 63 ∧ t.PHASE = 11#4 ∧ t.T.toNat = s.T.toNat + 1) ∨
  (s.PHASE = 11#4 ∧ s.T = 63#7 ∧ t.PHASE = 12#4 ∧ t.T = 64#7) ∨
  (s.PHASE = 12#4 ∧ t.PHASE = 13#4) ∨
  (s.PHASE = 13#4 ∧ s.I.toNat < s.N.toNat ∧ t.PHASE = 4#4 ∧ t.I.toNat = s.I.toNat + 1) ∨
  (s.PHASE = 13#4 ∧ s.I = s.N ∧ t.PHASE = 14#4) ∨
  (s.PHASE = 14#4 ∧ t.PHASE = 0#4 ∧ t.DONE = true)

/-- The turn writes the byte `c` to the command register. -/
def WritesCommand (u : Turn) (c : BitVec 8) : Prop := ∃ v : BitVec 256, u = .hostWrite 0 v ∧ v.setWidth 8 = c

end Sys2Proof.Machine
end

