-- ==== Sys2Proof/WellFormed.lean ====
section
/-!
DEFINITION. Which instructions are well-formed. The operands' widths are in their types; what is left to check is the
reserved PHASE code (log 18).
-/

namespace Sys2Proof

/-- An instruction that a CORE following the spec can be asked to run. PHASE code 15 is reserved and never entered
(30_encoding.md R85). -/
def Instr.wellFormed : Instr → Bool
  | .nop _ => true
  | .start _ => true
  | .clear _ => true
  | .rest => true
  | .check => true
  | .init => true
  | .cnt => true
  | .bzero => true
  | .bcopy => true
  | .bmark => true
  | .blen => true
  | .wload => true
  | .wexp => true
  | .seed => true
  | .round => true
  | .accum => true
  | .next => true
  | .final => true
  | .reserved15 => false
  | .rdcmd => true
  | .rdstatus => true
  | .rdlen => true
  | .rddigest => true
  | .wrcmd _ => true
  | .wrstatus _ => true
  | .wrlen _ => true
  | .wrdigest _ => true

end Sys2Proof
end

