-- ==== Sys2Proof/Certificates/Slice0/Obligations.lean ====
section
/-!
DEFINITION. The statements for the provers, from the spec's numbered rules.
-/

open Sys2Proof
open Sys2Proof.Machine

/-! ## Encoding (30_encoding.md) -/

/-- The decoder reads every encoded instruction back, with every operand at every value (R82, R84, R92). -/
def Obligations.EveryInstructionDecodesBack : Prop :=
  ∀ i : Instr, decode (encode i) = .ok i

/-- A word that decodes is the encoding of what it decodes to: a command byte and a PHASE code whole, a host access with the
same tag and the data lines its register takes (R82, R84, R92). -/
def Obligations.EveryAcceptedWordEncodesBack : Prop :=
  ∀ (w : Coded) (i : Instr), decode w = .ok i →
    match w with
    | .cmd c => encode i = .cmd c
    | .phase p => encode i = .phase p
    | .hacc tag data => ∃ d : BitVec 256, encode i = .hacc tag d ∧
        (tag = 4#3 → d.setWidth 8 = data.setWidth 8) ∧ (tag = 5#3 → d.setWidth 16 = data.setWidth 16) ∧
        (tag = 6#3 → d.setWidth 64 = data.setWidth 64) ∧ (tag = 7#3 → d = data)

/-- The command map (R82): the row is the one whose masked bits match, the six legal bytes are the listed ones, and every byte
with RSV != 0 or OP in 3..15 is illegal. -/
def Obligations.CommandMapByMaskAndMatch : Prop :=
  (∀ c : BitVec 8, (∃ x, decodeCommand c = .nop x) ↔ c &&& 0xEF#8 = 0x00#8) ∧
  (∀ c : BitVec 8, ∀ m, decodeCommand c = .start m ↔ (c &&& 0xEF#8 = 0x01#8 ∧ c.getLsbD 4 = m)) ∧
  (∀ c : BitVec 8, (∃ x, decodeCommand c = .clear x) ↔ c &&& 0xEF#8 = 0x02#8) ∧
  (∀ c : BitVec 8, decodeCommand c ≠ .illegal c ↔
    (c = 0x00#8 ∨ c = 0x10#8 ∨ c = 0x01#8 ∨ c = 0x11#8 ∨ c = 0x02#8 ∨ c = 0x12#8)) ∧
  (∀ c : BitVec 8, decodeCommand c = .illegal c ↔ (c.extractLsb' 5 3 ≠ 0#3 ∨ 3 ≤ (c.extractLsb' 0 4).toNat))

/-- Words written out from the spec's encodings decode to the instructions they stand for (R82, R84, R92). -/
def Obligations.WordsOfTheTablesDecode : Prop :=
  decode (.cmd 0x11#8) = .ok (.start true) ∧ decode (.cmd 0x01#8) = .ok (.start false) ∧
  decode (.cmd 0x12#8) = .ok (.clear true) ∧ decode (.cmd 0x03#8) = .rejected (.illegalCommand 0x03#8) ∧
  decode (.phase 0b0101#4) = .ok .bcopy ∧ decode (.phase 0b1011#4) = .ok .round ∧
  decode (.phase 0b1111#4) = .ok .reserved15 ∧ decode (.hacc 0b011#3 0#256) = .ok .rddigest ∧
  decode (.hacc 0b110#3 1000#256) = .ok (.wrlen 1000#64)

/-! ## What a step runs (45_host_sequencer.md R195; 20_memory.md R74) -/

/-- A step runs the instruction its turn selects: the sequencer's turn the decoding of PHASE, an access to registers 0 to 3
the decoding of its tag and data, a legal command byte the command itself. The turn is used up, nothing else happens around
it. The list of turns is the model's form (log 1). -/
def Obligations.StepRunsTheSelectedInstruction : Prop :=
  (∀ s : State, s.turns = [] → step s = exec (decodePhase s.PHASE) s) ∧
  (∀ (s : State) (rest : List Turn), s.turns = .sequencer :: rest →
    step s = exec (decodePhase s.PHASE) { s with turns := rest }) ∧
  (∀ (s : State) (r : Nat) (rest : List Turn), s.turns = .hostRead r :: rest → r < 4 →
    step s = exec (decodeAccess (0#1 ++ BitVec.ofNat 2 r) 0#256) { s with turns := rest }) ∧
  (∀ (s : State) (r : Nat) (v : BitVec 256) (rest : List Turn), s.turns = .hostWrite r v :: rest → r < 4 →
    step s = exec (decodeAccess (1#1 ++ BitVec.ofNat 2 r) v) { s with turns := rest }) ∧
  (∀ (s : State) (v : BitVec 256) (i : Instr) (rest : List Turn), s.turns = .hostWrite 0 v :: rest →
    decode (.cmd (v.setWidth 8)) = .ok i → step s = exec i { s with turns := rest })

/-- No state stops the machine: every step answers a next state. Model's form of "nothing else can fail" (R215) and of an
agent with no step (log 3, log 27). -/
def Obligations.EveryStepAnswersANextState : Prop :=
  ∀ s : State, ∃ t : State, step s = .next t

/-! ## Reset (10_state.md R48; 70_reset_and_hazards.md R240, R242) -/

/-- The reset state holds the values R48 states. -/
def Obligations.ResetValuesAsStated : Prop :=
  State.reset.PHASE = 0#4 ∧ State.reset.DONE = false ∧ State.reset.ERR = false ∧ State.reset.REJ = false ∧
  State.reset.MSGP = false ∧ State.reset.ERRCODE = 0#2 ∧ State.reset.LEN = 0#64 ∧ State.reset.status = 0x0000#16

/-- The reset input, from any state: the control state and LEN at their reset values (R240). The datapath registers are
unspecified and nothing is said of them. That message memory and the turns to come stay as they were is the model's reading
of R242 (log 20). -/
def Obligations.ResetInputFromAnyState : Prop :=
  ∀ (s : State) (rest : List Turn), s.turns = .reset :: rest →
    ∃ t : State, step s = .next t ∧ t.PHASE = 0#4 ∧ t.DONE = false ∧ t.ERR = false ∧ t.REJ = false ∧ t.MSGP = false ∧
      t.ERRCODE = 0#2 ∧ t.LEN = 0#64 ∧ t.status = 0x0000#16 ∧ (∀ a : Nat, t.msg.read a = s.msg.read a) ∧ t.turns = rest

/-! ## Host commands (45_host_sequencer.md R180 to R184) -/

/-- NOP does nothing, in every state (R181). -/
def Obligations.NopDoesNothing : Prop :=
  decode (.cmd 0x00#8) = .ok (.nop false) ∧ decode (.cmd 0x10#8) = .ok (.nop true) ∧
  ∀ (x : Bool) (s : State), exec (.nop x) s = .next s

/-- START (R182): accepted at REST whatever DONE and ERR are, dropped with REJ when busy. -/
def Obligations.StartAcceptedOnlyAtRest : Prop :=
  decode (.cmd 0x01#8) = .ok (.start false) ∧ decode (.cmd 0x11#8) = .ok (.start true) ∧
  (∀ (m : Bool) (s : State), s.PHASE = 0#4 →
    ∃ t : State, exec (.start m) s = .next t ∧ t.MSGP = m ∧ t.DONE = false ∧ t.ERR = false ∧ t.ERRCODE = 0#2 ∧
      t.PHASE = 1#4 ∧ Frame [.MSGP, .DONE, .ERR, .ERRCODE, .PHASE] s t) ∧
  (∀ (m : Bool) (s : State), s.PHASE ≠ 0#4 →
    ∃ t : State, exec (.start m) s = .next t ∧ t.REJ = true ∧ Frame [.REJ] s t)

/-- CLEAR (R183): REST and every status flag cleared, in every state; LEN is kept. The datapath registers are unspecified after
it and nothing is said of them here. -/
def Obligations.ClearReturnsToRest : Prop :=
  decode (.cmd 0x02#8) = .ok (.clear false) ∧ decode (.cmd 0x12#8) = .ok (.clear true) ∧
  ∀ (x : Bool) (s : State), ∃ t : State, exec (.clear x) s = .next t ∧ t.PHASE = 0#4 ∧ t.DONE = false ∧ t.ERR = false ∧
    t.ERRCODE = 0#2 ∧ t.REJ = false ∧ t.MSGP = false ∧
    Frame [.PHASE, .DONE, .ERR, .ERRCODE, .REJ, .MSGP, .H, .V, .W, .B, .D, .N, .I, .OFF, .T, .NCOPY, .MARKED] s t

/-- Model's choice (log 4): the datapath registers, unspecified after CLEAR, keep what they held. -/
def Obligations.ClearLeavesTheDatapathInPlace : Prop :=
  ∀ (x : Bool) (s : State), ∃ t : State, exec (.clear x) s = .next t ∧
    Frame [.PHASE, .DONE, .ERR, .ERRCODE, .REJ, .MSGP] s t

/-- A byte that selects no command (R184, R216): ILLEGAL_CMD at REST, dropped with REJ when busy. -/
def Obligations.IllegalCommandByte : Prop :=
  ∀ (c : BitVec 8) (s : State), (c.extractLsb' 5 3 ≠ 0#3 ∨ 3 ≤ (c.extractLsb' 0 4).toNat) →
    (s.PHASE = 0#4 → ∃ t : State, exec (.wrcmd c) s = .next t ∧ t.PHASE = 0#4 ∧ t.DONE = false ∧ t.ERR = true ∧
      t.ERRCODE = 3#2 ∧ Frame [.DONE, .ERR, .ERRCODE] s t) ∧
    (s.PHASE ≠ 0#4 → ∃ t : State, exec (.wrcmd c) s = .next t ∧ t.REJ = true ∧ Frame [.REJ] s t)

/-- WRCMD performs the command its byte selects, at once, and completes for every legal byte (R180). -/
def Obligations.WrcmdPerformsTheSelectedCommand : Prop :=
  ∀ (c : BitVec 8) (i : Instr) (s : State), decode (.cmd c) = .ok i →
    exec (.wrcmd c) s = exec i s ∧ ∃ t : State, exec (.wrcmd c) s = .next t

/-! ## Host accesses (45_host_sequencer.md R185 to R189) -/

/-- WRLEN (R185): any 64-bit value is stored at REST and nothing else changes; dropped with REJ when busy. -/
def Obligations.WrlenStoresAtRest : Prop :=
  decode (.hacc 0b110#3 1000#256) = .ok (.wrlen 1000#64) ∧
  (∀ (v : BitVec 64) (s : State), s.PHASE = 0#4 →
    ∃ t : State, exec (.wrlen v) s = .next t ∧ t.LEN = v ∧ Frame [.LEN] s t) ∧
  (∀ (v : BitVec 64) (s : State), s.PHASE ≠ 0#4 →
    ∃ t : State, exec (.wrlen v) s = .next t ∧ t.REJ = true ∧ Frame [.REJ] s t)

/-- RDLEN returns LEN in every state, with no side effect on the CORE (R186). -/
def Obligations.RdlenReturnsLen : Prop :=
  ∀ s : State, ∃ t : State, exec .rdlen s = .next t ∧ t.lastRead = some (.len s.LEN) ∧ Kept [] s t ∧ t.fresh = s.fresh

/-- RDSTATUS returns the STATUS word, field by field, and clears nothing (R41, R187, R40). -/
def Obligations.RdstatusReturnsTheStatusFields : Prop :=
  ∀ s : State, ∃ (t : State) (w : BitVec 16), exec .rdstatus s = .next t ∧ t.lastRead = some (.status w) ∧
    (w.getLsbD 0 = true ↔ s.PHASE ≠ 0#4) ∧ w.getLsbD 1 = s.DONE ∧ w.getLsbD 2 = s.ERR ∧ w.getLsbD 3 = s.REJ ∧
    w.extractLsb' 4 2 = s.ERRCODE ∧ w.extractLsb' 6 2 = 0#2 ∧ w.extractLsb' 8 4 = s.PHASE ∧ w.extractLsb' 12 4 = 0#4 ∧
    Kept [] s t ∧ t.fresh = s.fresh

/-- RDDIGEST while DONE = 1 returns the 256-bit digest with D[0] in bits 255:248 (R188). -/
def Obligations.RddigestReturnsTheDigestBytes : Prop :=
  ∀ s : State, s.DONE = true → ∃ (t : State) (d : BitVec 256), exec .rddigest s = .next t ∧
    t.lastRead = some (.digest d) ∧ (∀ k : Fin 32, d.extractLsb' (248 - 8 * k.val) 8 = s.D[k.val]) ∧
    Kept [] s t ∧ t.fresh = s.fresh

/-- RDDIGEST while DONE = 0 completes too: it returns the next free value and counts the draw, so that two reads need not agree
and the digest register is not shown. The free value is the model's form of "unspecified" (log 5). -/
def Obligations.RddigestWithoutDoneReturnsAFreeValue : Prop :=
  ∀ s : State, s.DONE = false → ∃ t : State, exec .rddigest s = .next t ∧
    t.lastRead = some (.digest (Config.freeDigest s.fresh)) ∧ t.fresh = s.fresh + 1 ∧ Kept [] s t

/-- The remaining accesses (R189): RDCMD returns 0x00; WRSTATUS and WRDIGEST change nothing and do not set REJ; at a register
number of 4 or above a write is ignored, and a read returns some value and changes no register. -/
def Obligations.RemainingAccessesChangeNothing : Prop :=
  (∀ s : State, ∃ t : State, exec .rdcmd s = .next t ∧ t.lastRead = some (.cmd 0x00#8) ∧ Kept [] s t ∧ t.fresh = s.fresh) ∧
  (∀ (v : BitVec 16) (s : State), exec (.wrstatus v) s = .next s) ∧
  (∀ (v : BitVec 256) (s : State), exec (.wrdigest v) s = .next s) ∧
  (∀ (s : State) (r : Nat) (v : BitVec 256) (rest : List Turn), s.turns = .hostWrite r v :: rest → 4 ≤ r →
    step s = .next { s with turns := rest }) ∧
  (∀ (s : State) (r : Nat) (rest : List Turn), s.turns = .hostRead r :: rest → 4 ≤ r →
    ∃ (t : State) (v : BitVec 256), step s = .next t ∧ t.lastRead = some (.unmapped v) ∧
      (∀ g : Reg, g.same s t) ∧ t.msg = s.msg ∧ t.turns = rest)

/-! ## The sequencer's own codes -/

/-- At REST, and at the reserved code, the sequencer has no step: its turn changes nothing, STATUS shows BUSY = 0 and 1, and
at the reserved code CLEAR and reset still act. Model's form of "no step" (log 3). -/
def Obligations.SequencerWithNoStepChangesNothing : Prop :=
  (∀ s : State, exec .rest s = .next s) ∧ (∀ s : State, exec .reserved15 s = .next s) ∧
  (∀ s : State, s.turns = [] → s.PHASE = 0#4 → step s = .next s ∧ s.status.getLsbD 0 = false) ∧
  (∀ s : State, s.turns = [] → s.PHASE = 15#4 → step s = .next s ∧ s.status.getLsbD 0 = true) ∧
  (∀ (s : State) (rest : List Turn), s.PHASE = 15#4 → (s.turns = .hostWrite 0 0x02#256 :: rest ∨ s.turns = .reset :: rest) →
    ∃ t : State, step s = .next t ∧ t.PHASE = 0#4)

/-- CHECK (R190, R211, R212, R216, R218): LEN_RANGE wins, then NO_BUFFER, each by the error entry; otherwise on to INIT. LEN =
0 with no buffer passes. -/
def Obligations.CheckTestsThePreconditions : Prop :=
  encode .check = .phase 1#4 ∧
  (∀ s : State, 2 ^ 61 ≤ s.LEN.toNat →
    ∃ t : State, exec .check s = .next t ∧ t.PHASE = 0#4 ∧ t.DONE = false ∧ t.ERR = true ∧ t.ERRCODE = 1#2 ∧
      Frame [.PHASE, .DONE, .ERR, .ERRCODE] s t) ∧
  (∀ s : State, s.LEN.toNat < 2 ^ 61 → s.LEN ≠ 0#64 → s.MSGP = false →
    ∃ t : State, exec .check s = .next t ∧ t.PHASE = 0#4 ∧ t.DONE = false ∧ t.ERR = true ∧ t.ERRCODE = 2#2 ∧
      Frame [.PHASE, .DONE, .ERR, .ERRCODE] s t) ∧
  (∀ s : State, s.LEN.toNat < 2 ^ 61 → (s.LEN = 0#64 ∨ s.MSGP = true) →
    ∃ t : State, exec .check s = .next t ∧ t.PHASE = 2#4 ∧ Frame [.PHASE] s t)

/-! ## PAD (41_padding_block_counter.md) -/

/-- CNT (R120): the block count and the per-run counters. -/
def Obligations.CntCountsTheBlocks : Prop :=
  encode .cnt = .phase 3#4 ∧
  ∀ s : State, s.LEN.toNat < 2 ^ 61 → ∃ t : State, exec .cnt s = .next t ∧
    t.N.toNat = s.LEN.toNat / 64 + 1 + (if 56 ≤ s.LEN.toNat % 64 then 1 else 0) ∧
    t.I = 1#56 ∧ t.OFF = 0#61 ∧ t.MARKED = false ∧ t.PHASE = 4#4 ∧ Frame [.N, .I, .OFF, .MARKED, .PHASE] s t

/-- The count agrees with the padding invariant (R127): N = ceil((LEN + 9) / 64), and it fits its register (R27). -/
def Obligations.BlockCountIsTheCeiling : Prop :=
  ∀ s : State, s.LEN.toNat < 2 ^ 61 → ∃ t : State, exec .cnt s = .next t ∧
    64 * (t.N.toNat - 1) < s.LEN.toNat + 9 ∧ s.LEN.toNat + 9 ≤ 64 * t.N.toNat ∧ 1 ≤ t.N.toNat ∧ t.N.toNat ≤ 2 ^ 55 + 1

/-- BZERO (R121). -/
def Obligations.BzeroZeroesTheBlock : Prop :=
  encode .bzero = .phase 4#4 ∧
  ∀ s : State, ∃ t : State, exec .bzero s = .next t ∧ (∀ k : Fin 64, t.B[k.val] = 0x00#8) ∧ t.PHASE = 5#4 ∧
    Frame [.B, .PHASE] s t

/-- BCOPY (R122) when the platform answers each of its reads: the next min(LEN - OFF, 64) message bytes go to B[0..], the rest
of B is untouched. 0 <= OFF <= LEN < 2^61 holds in every run (R29, R190). -/
def Obligations.BcopyCopiesTheNextBytes : Prop :=
  encode .bcopy = .phase 5#4 ∧
  ∀ s : State, s.LEN.toNat < 2 ^ 61 → s.OFF.toNat ≤ s.LEN.toNat →
    (∀ k : Nat, k < min (s.LEN.toNat - s.OFF.toNat) 64 → ∃ b : Byte, s.msg.read (s.OFF.toNat + k) = some b) →
    ∃ t : State, exec .bcopy s = .next t ∧
      (∀ k : Fin 64, k.val < min (s.LEN.toNat - s.OFF.toNat) 64 → s.msg.read (s.OFF.toNat + k.val) = some t.B[k.val]) ∧
      (∀ k : Fin 64, min (s.LEN.toNat - s.OFF.toNat) 64 ≤ k.val → t.B[k.val] = s.B[k.val]) ∧
      t.OFF.toNat = s.OFF.toNat + min (s.LEN.toNat - s.OFF.toNat) 64 ∧
      t.NCOPY.toNat = min (s.LEN.toNat - s.OFF.toNat) 64 ∧ t.PHASE = 6#4 ∧ Frame [.B, .OFF, .NCOPY, .PHASE] s t

/-- While one of its reads is not answered BCOPY has no step: the sequencer stays in it with BUSY = 1 and no error, and only
CLEAR or reset frees the CORE (R229). That a turn changes nothing is the model's form of "no step" (log 3). -/
def Obligations.BcopyWaitsForAnUnansweredRead : Prop :=
  ∀ s : State, s.LEN.toNat < 2 ^ 61 → s.OFF.toNat ≤ s.LEN.toNat → s.PHASE = 5#4 →
    (∃ k : Nat, k < min (s.LEN.toNat - s.OFF.toNat) 64 ∧ s.msg.read (s.OFF.toNat + k) = none) →
    exec .bcopy s = .next s ∧ s.status.getLsbD 0 = true ∧ (s.turns = [] → step s = .next s) ∧
    (∀ rest : List Turn, (s.turns = .hostWrite 0 0x02#256 :: rest ∨ s.turns = .reset :: rest) →
      ∃ t : State, step s = .next t ∧ t.PHASE = 0#4)

/-- BMARK (R123): the marker at B[NCOPY] when MARKED = 0 and NCOPY < 64, and nowhere otherwise. -/
def Obligations.BmarkWritesTheMarkerOnce : Prop :=
  encode .bmark = .phase 6#4 ∧
  (∀ s : State, s.MARKED = false → s.NCOPY.toNat < 64 → ∃ t : State, exec .bmark s = .next t ∧
    (∀ k : Fin 64, t.B[k.val] = if k.val = s.NCOPY.toNat then 0x80#8 else s.B[k.val]) ∧ t.MARKED = true ∧ t.PHASE = 7#4 ∧
    Frame [.B, .MARKED, .PHASE] s t) ∧
  (∀ s : State, (s.MARKED = true ∨ 64 ≤ s.NCOPY.toNat) → ∃ t : State, exec .bmark s = .next t ∧ t.PHASE = 7#4 ∧
    Frame [.PHASE] s t)

/-- BLEN (R124): in the final block B[56..63] take LEN * 8, most significant byte first; in another block nothing but PHASE
changes. -/
def Obligations.BlenWritesTheLengthInTheFinalBlock : Prop :=
  encode .blen = .phase 7#4 ∧
  (∀ s : State, s.LEN.toNat < 2 ^ 61 → s.I = s.N → ∃ t : State, exec .blen s = .next t ∧
    (∀ k : Fin 8, t.B[56 + k.val].toNat = s.LEN.toNat * 8 / 2 ^ (56 - 8 * k.val) % 256) ∧
    (∀ k : Fin 56, t.B[k.val] = s.B[k.val]) ∧ t.PHASE = 8#4 ∧ Frame [.B, .PHASE] s t) ∧
  (∀ s : State, s.I ≠ s.N → ∃ t : State, exec .blen s = .next t ∧ t.PHASE = 8#4 ∧ Frame [.PHASE] s t)

/-- NEXT (R125): on to FINAL after the last block, else the next block index and BZERO. -/
def Obligations.NextAdvancesTheBlockIndex : Prop :=
  encode .next = .phase 13#4 ∧
  (∀ s : State, s.I = s.N → ∃ t : State, exec .next s = .next t ∧ t.PHASE = 14#4 ∧ Frame [.PHASE] s t) ∧
  (∀ s : State, s.I ≠ s.N → ∃ t : State, exec .next s = .next t ∧ t.I = s.I + 1#56 ∧ t.PHASE = 4#4 ∧
    Frame [.I, .PHASE] s t)

/-! ## MSX (42_schedule_expander.md) -/

/-- WLOAD (R140): W[t] is the big-endian word of B[4t..4t+3] for t < 16; W[16..63] are untouched. -/
def Obligations.WloadReadsBigEndianWords : Prop :=
  encode .wload = .phase 8#4 ∧
  ∀ s : State, ∃ t : State, exec .wload s = .next t ∧
    (∀ k : Fin 16, t.W[k.val].toNat = s.B[4 * k.val].toNat * 2 ^ 24 + s.B[4 * k.val + 1].toNat * 2 ^ 16 +
      s.B[4 * k.val + 2].toNat * 2 ^ 8 + s.B[4 * k.val + 3].toNat) ∧
    (∀ k : Fin 64, 16 ≤ k.val → t.W[k.val] = s.W[k.val]) ∧ t.PHASE = 9#4 ∧ Frame [.W, .PHASE] s t

/-- WEXP (R141): every new word satisfies the recurrence over the words below it, which are the new ones; W[0..15] are
untouched. The two functions are written out by their rules (R101, R102, R108, R109). -/
def Obligations.WexpFollowsTheRecurrence : Prop :=
  encode .wexp = .phase 9#4 ∧
  ∀ s : State, ∃ t : State, exec .wexp s = .next t ∧
    (∀ k : Fin 48, t.W[k.val + 16] =
      ((t.W[k.val + 14]).rotateRight 17 ^^^ (t.W[k.val + 14]).rotateRight 19 ^^^ (t.W[k.val + 14] >>> 10)) + t.W[k.val + 9] +
        ((t.W[k.val + 1]).rotateRight 7 ^^^ (t.W[k.val + 1]).rotateRight 18 ^^^ (t.W[k.val + 1] >>> 3)) + t.W[k.val]) ∧
    (∀ k : Fin 16, t.W[k.val] = s.W[k.val]) ∧ t.PHASE = 10#4 ∧ Frame [.W, .PHASE] s t

/-! ## CMP (43_compression.md) -/

/-- INIT (R150) with the values of IV (10_state.md R31). -/
def Obligations.InitLoadsTheInitialHashValue : Prop :=
  encode .init = .phase 2#4 ∧
  ∀ s : State, ∃ t : State, exec .init s = .next t ∧
    t.H.toList = [0x6a09e667#32, 0xbb67ae85#32, 0x3c6ef372#32, 0xa54ff53a#32, 0x510e527f#32, 0x9b05688c#32, 0x1f83d9ab#32,
      0x5be0cd19#32] ∧ t.PHASE = 3#4 ∧ Frame [.H, .PHASE] s t

/-- SEED (R151). -/
def Obligations.SeedCopiesTheHashState : Prop :=
  encode .seed = .phase 10#4 ∧
  ∀ s : State, ∃ t : State, exec .seed s = .next t ∧ (∀ j : Fin 8, t.V[j.val] = s.H[j.val]) ∧ t.T = 0#7 ∧ t.PHASE = 11#4 ∧
    Frame [.V, .T, .PHASE] s t

/-- ROUND (R152) at T = 0..63: T1 and T2 from the old a..h, K[T] and W[T], the eight writes together, and the successor by the
value of T before the round. The three functions are written out by their rules (R101 to R107). -/
def Obligations.RoundTransformsTheWorkingVariables : Prop :=
  encode .round = .phase 11#4 ∧
  ∀ (s : State) (hT : s.T.toNat < 64), ∃ (t : State) (T1 T2 : Word), exec .round s = .next t ∧
    T1 = s.V[7] + ((s.V[4]).rotateRight 6 ^^^ (s.V[4]).rotateRight 11 ^^^ (s.V[4]).rotateRight 25) +
      ((s.V[4] &&& s.V[5]) ^^^ (~~~(s.V[4]) &&& s.V[6])) + K[s.T.toNat] + s.W[s.T.toNat] ∧
    T2 = ((s.V[0]).rotateRight 2 ^^^ (s.V[0]).rotateRight 13 ^^^ (s.V[0]).rotateRight 22) +
      ((s.V[0] &&& s.V[1]) ^^^ (s.V[0] &&& s.V[2]) ^^^ (s.V[1] &&& s.V[2])) ∧
    t.V[0] = T1 + T2 ∧ t.V[1] = s.V[0] ∧ t.V[2] = s.V[1] ∧ t.V[3] = s.V[2] ∧ t.V[4] = s.V[3] + T1 ∧ t.V[5] = s.V[4] ∧
    t.V[6] = s.V[5] ∧ t.V[7] = s.V[6] ∧ t.T.toNat = s.T.toNat + 1 ∧
    (s.T.toNat = 63 → t.PHASE = 12#4) ∧ (s.T.toNat ≠ 63 → t.PHASE = 11#4) ∧ Frame [.V, .T, .PHASE] s t

/-- ROUND at T >= 64, which no run reaches and where the tables have no entry: it runs on free words (log 7), and everything
that does not depend on them is as R152 says. -/
def Obligations.RoundBeyondTheTablesStillRuns : Prop :=
  ∀ s : State, 64 ≤ s.T.toNat → ∃ t : State, exec .round s = .next t ∧
    t.V[1] = s.V[0] ∧ t.V[2] = s.V[1] ∧ t.V[3] = s.V[2] ∧ t.V[5] = s.V[4] ∧ t.V[6] = s.V[5] ∧ t.V[7] = s.V[6] ∧
    t.T = s.T + 1#7 ∧ t.PHASE = 11#4 ∧ t.fresh = s.fresh + 1 ∧ Kept [.V, .T, .PHASE] s t

/-- ACCUM (R153): the eight words together, each modulo 2^32 with no carry from one to the next. -/
def Obligations.AccumAddsWordByWord : Prop :=
  encode .accum = .phase 12#4 ∧
  ∀ s : State, ∃ t : State, exec .accum s = .next t ∧
    (∀ j : Fin 8, t.H[j.val].toNat = (s.H[j.val].toNat + s.V[j.val].toNat) % 2 ^ 32) ∧ t.PHASE = 13#4 ∧
    Frame [.H, .PHASE] s t

/-! ## FIN (44_finalizer.md) -/

/-- FINAL (R170; 20_memory.md R64): D[4j + k] is byte k of H[j], most significant first, DONE is set and the CORE rests, in one
step. -/
def Obligations.FinalWritesTheDigestBytes : Prop :=
  encode .final = .phase 14#4 ∧
  ∀ s : State, ∃ t : State, exec .final s = .next t ∧
    (∀ (j : Fin 8) (k : Fin 4), t.D[4 * j.val + k.val].toNat = s.H[j.val].toNat / 2 ^ (24 - 8 * k.val) % 256) ∧
    t.DONE = true ∧ t.PHASE = 0#4 ∧ Frame [.D, .DONE, .PHASE] s t

/-! ## Word functions (40_functions.md) -/

/-- rotr (R101) for 1 <= n <= 31: bit i of the result is bit (i + n) mod 32 of x. -/
def Obligations.RotrMovesEachBit : Prop :=
  ∀ (x : Word) (n : Nat), 1 ≤ n → n ≤ 31 → ∀ i : Fin 32, (rotr x n).getLsbD i.val = x.getLsbD ((i.val + n) % 32)

/-- add32 is addition modulo 2^32 (R100), Ch takes y's bit where x is 1 and z's where it is 0 (R104), and Maj is the bitwise
majority (R105). -/
def Obligations.WordFunctionsBitByBit : Prop :=
  (∀ x y : Word, (add32 x y).toNat = (x.toNat + y.toNat) % 2 ^ 32) ∧
  (∀ (x y z : Word) (i : Fin 32), (Ch x y z).getLsbD i.val = if x.getLsbD i.val then y.getLsbD i.val else z.getLsbD i.val) ∧
  (∀ (x y z : Word) (i : Fin 32), (Maj x y z).getLsbD i.val =
    decide (2 ≤ (x.getLsbD i.val).toNat + (y.getLsbD i.val).toNat + (z.getLsbD i.val).toNat))

/-- The bytes of a word, most significant first, make the word again (R110, R111), and the bytes of a 64-bit number are its
base-256 digits (R112). -/
def Obligations.BytesOfAWordMakeTheWord : Prop :=
  (∀ w : Word, be32 (byteOf w 0) (byteOf w 1) (byteOf w 2) (byteOf w 3) = w) ∧
  (∀ b0 b1 b2 b3 : Byte, (be32 b0 b1 b2 b3).toNat = b0.toNat * 2 ^ 24 + b1.toNat * 2 ^ 16 + b2.toNat * 2 ^ 8 + b3.toNat) ∧
  (∀ (L : BitVec 64) (k : Fin 8), (be64 L k.val).toNat = L.toNat / 2 ^ (56 - 8 * k.val) % 256)

/-- The tables by the definitions R30 and R31 give beside their values: K[t] is the first 32 bits of the fractional part of the
cube root of the t-th prime, IV[j] of the square root of the j-th. The values are from general knowledge (log 19). -/
def Obligations.TablesAreFractionsOfRootsOfPrimes : Prop :=
  (∀ t : Fin 64, ∃ c : Nat, c ^ 3 ≤ Nat.nth Nat.Prime t.val * 2 ^ 96 ∧ Nat.nth Nat.Prime t.val * 2 ^ 96 < (c + 1) ^ 3 ∧
    (K[t.val]).toNat = c % 2 ^ 32) ∧
  (∀ j : Fin 8, ∃ c : Nat, c ^ 2 ≤ Nat.nth Nat.Prime j.val * 2 ^ 64 ∧ Nat.nth Nat.Prime j.val * 2 ^ 64 < (c + 1) ^ 2 ∧
    (IV[j.val]).toNat = c % 2 ^ 32)

/-! ## The message memory -/

/-- The message's owner sets what one offset answers, a byte or nothing, and no other offset, register or turn changes. Model's
form of a host that writes its buffer (log 8, log 9). -/
def Obligations.MessageOwnerChangesOneOffset : Prop :=
  ∀ (s : State) (a : BitVec 61) (v : Option Byte) (rest : List Turn), s.msg.wf = true → s.turns = .message a v :: rest →
    ∃ t : State, step s = .next t ∧ (∀ x : Nat, t.msg.read x = if x = a.toNat then v else s.msg.read x) ∧
      t.msg.wf = true ∧ (∀ r : Reg, r.same s t) ∧ t.turns = rest ∧ t.lastRead = s.lastRead ∧ t.fresh = s.fresh

/-- The CORE never writes memory (R66): no instruction changes it, and no step does but the turn of the message's owner. -/
def Obligations.CoreNeverWritesMemory : Prop :=
  (∀ (i : Instr) (s t : State), exec i s = .next t → t.msg = s.msg) ∧
  (∀ s t : State, step s = .next t → t.msg ≠ s.msg → ∃ (a : BitVec 61) (v : Option Byte), s.turn = .message a v)

/-- No step of the sequencer reads the message at or beyond LEN (R77): where the memory differs only there, every register comes
out the same. -/
def Obligations.NoReadAtOrBeyondLen : Prop :=
  ∀ (s : State) (m : Memory), Inv s → s.turn = .sequencer →
    (∀ a : Nat, a < s.LEN.toNat → m.read a = s.msg.read a) →
    ∃ t u : State, step s = .next t ∧ step { s with msg := m } = .next u ∧ ∀ r : Reg, r.same t u

/-! ## Whole-machine rules -/

/-- The access table (R50, R20): an operation writes no register outside its entries. CHECK's error entry also writes DONE <- 0
(R216), which it finds 0 in every run (R37); the premise says so. For CLEAR the rule keeps the datapath in place (log 4). -/
def Obligations.OperationsWriteOnlyTheirRegisters : Prop :=
  ∀ (i : Instr) (s : State), (i = .check → s.DONE = false) →
    ∃ t : State, exec i s = .next t ∧ ∀ r : Reg, r ∉ mayWrite i → r.same s t

/-- Every step keeps the invariant, whatever the host does. -/
def Obligations.EveryStepKeepsTheInvariant : Prop :=
  ∀ s t : State, Inv s → step s = .next t → Inv t

/-- The reset state meets the invariant. -/
def Obligations.ResetMeetsTheInvariant : Prop := Inv State.reset

/-- Every change of PHASE is a row of the transition table (R196), and the sequencer's turn at PHASE 1 to 14 takes a row,
unless BCOPY waits for an unanswered read (R229): that its turn then changes nothing is the model's form of "no step" (log 3).
The table's row of an illegal byte at REST leaves PHASE at 0. -/
def Obligations.PhaseFollowsTheTransitionTable : Prop :=
  (∀ s t : State, Inv s → step s = .next t → t.PHASE ≠ s.PHASE →
    (s.turn = .sequencer ∧ SequencerRow s t) ∨
    (s.PHASE = 0#4 ∧ t.PHASE = 1#4 ∧ ∃ (c : BitVec 8) (m : Bool), WritesCommand s.turn c ∧ decodeCommand c = .start m ∧
      t.MSGP = m ∧ t.DONE = false ∧ t.ERR = false ∧ t.ERRCODE = 0#2) ∨
    (t.PHASE = 0#4 ∧ (∃ (c : BitVec 8) (x : Bool), WritesCommand s.turn c ∧ decodeCommand c = .clear x) ∧
      t.DONE = false ∧ t.ERR = false ∧ t.ERRCODE = 0#2 ∧ t.REJ = false ∧ t.MSGP = false) ∨
    (t.PHASE = 0#4 ∧ s.turn = .reset)) ∧
  (∀ s : State, Inv s → s.turn = .sequencer → s.PHASE ≠ 0#4 → ∃ t : State, step s = .next t ∧
    (SequencerRow s t ∨ (s.PHASE = 5#4 ∧ t = s.popTurn ∧
      ∃ k : Nat, k < min (s.LEN.toNat - s.OFF.toNat) 64 ∧ s.msg.read (s.OFF.toNat + k) = none))) ∧
  (∀ (s : State) (c : BitVec 8), s.PHASE = 0#4 → WritesCommand s.turn c → decodeCommand c = .illegal c →
    ∃ t : State, step s = .next t ∧ t.PHASE = 0#4 ∧ t.ERR = true ∧ t.ERRCODE = 3#2 ∧ t.DONE = false)

/-- The STATUS words a run shows (R86): BUSY with DONE = ERR = 0, ERRCODE = 0 and PHASE in 1..14, or REST with at most one of
DONE and ERR and ERRCODE in 1..3 exactly when ERR = 1; the reserved bits read 0. -/
def Obligations.StatusCombinationsShown : Prop :=
  ∀ s : State, Inv s →
    ((s.status.getLsbD 0 = true ∧ s.status.getLsbD 1 = false ∧ s.status.getLsbD 2 = false ∧ s.status.extractLsb' 4 2 = 0#2 ∧
        1 ≤ (s.status.extractLsb' 8 4).toNat ∧ (s.status.extractLsb' 8 4).toNat ≤ 14) ∨
      (s.status.getLsbD 0 = false ∧ s.status.extractLsb' 8 4 = 0#4 ∧
        ¬(s.status.getLsbD 1 = true ∧ s.status.getLsbD 2 = true) ∧
        (s.status.getLsbD 2 = true ↔ 1 ≤ (s.status.extractLsb' 4 2).toNat))) ∧
    s.status.extractLsb' 6 2 = 0#2 ∧ s.status.extractLsb' 12 4 = 0#4

/-- Who sets and who clears each flag, in every step. DONE (R37): set by FINAL, cleared by an accepted START, CLEAR, an illegal
byte at REST and reset (DONE = 1 is at REST by the invariant). ERR and ERRCODE (R38): set by an error entry, cleared by an
accepted START, CLEAR and reset. REJ (R39): set by a START, an illegal byte or a WRLEN while busy, cleared by CLEAR and
reset. -/
def Obligations.WhoSetsAndClearsTheFlags : Prop :=
  ∀ s t : State, step s = .next t →
    (s.DONE = false → t.DONE = true → s.turn = .sequencer ∧ s.PHASE = 14#4) ∧
    (Inv s → s.DONE = true → t.DONE = false → s.turn = .reset ∨
      ∃ c : BitVec 8, WritesCommand s.turn c ∧ ((∃ x, decodeCommand c = .clear x) ∨
        (s.PHASE = 0#4 ∧ ((∃ m, decodeCommand c = .start m) ∨ decodeCommand c = .illegal c)))) ∧
    ((s.ERR = false ∧ t.ERR = true ∨ t.ERRCODE ≠ s.ERRCODE ∧ t.ERRCODE ≠ 0#2) →
      (s.turn = .sequencer ∧ s.PHASE = 1#4) ∨
      (s.PHASE = 0#4 ∧ ∃ c : BitVec 8, WritesCommand s.turn c ∧ decodeCommand c = .illegal c)) ∧
    ((s.ERR = true ∧ t.ERR = false ∨ s.ERRCODE ≠ 0#2 ∧ t.ERRCODE = 0#2) → s.turn = .reset ∨
      ∃ c : BitVec 8, WritesCommand s.turn c ∧ ((∃ x, decodeCommand c = .clear x) ∨
        (s.PHASE = 0#4 ∧ ∃ m, decodeCommand c = .start m))) ∧
    (s.REJ = false → t.REJ = true → s.PHASE ≠ 0#4 ∧ ((∃ v : BitVec 256, s.turn = .hostWrite 2 v) ∨
      ∃ c : BitVec 8, WritesCommand s.turn c ∧ ((∃ m, decodeCommand c = .start m) ∨ decodeCommand c = .illegal c))) ∧
    (s.REJ = true → t.REJ = false → s.turn = .reset ∨
      ∃ (c : BitVec 8) (x : Bool), WritesCommand s.turn c ∧ decodeCommand c = .clear x)

/-- Only a host write at REST and reset change LEN (R26, R185, R242). -/
def Obligations.OnlyTheHostWritesLen : Prop :=
  ∀ s t : State, step s = .next t → t.LEN ≠ s.LEN →
    (s.PHASE = 0#4 ∧ ∃ v : BitVec 256, s.turn = .hostWrite 2 v ∧ t.LEN = v.setWidth 64) ∨ (s.turn = .reset ∧ t.LEN = 0#64)

/-- H is written only by INIT and, all eight words in one step after the last round, by ACCUM (R44, R21). That CLEAR and reset,
after which H is unspecified (R183, R240), leave it as it was is the model's choice (log 4). -/
def Obligations.HashStateChangesOnlyAtInitAndAccum : Prop :=
  ∀ s t : State, Inv s → step s = .next t → t.H ≠ s.H →
    s.turn = .sequencer ∧ (s.PHASE = 2#4 ∨ (s.PHASE = 12#4 ∧ s.T = 64#7))

/-- A host access other than CLEAR during a run changes nothing the run reads (R201, R74): every register but REJ, and the
message, are as before. -/
def Obligations.BusyHostAccessDisturbsNothing : Prop :=
  ∀ s : State, s.PHASE ≠ 0#4 →
    ((∃ r : Nat, s.turn = .hostRead r) ∨
      (∃ (r : Nat) (v : BitVec 256), s.turn = .hostWrite r v ∧ ¬(r = 0 ∧ ∃ x, decodeCommand (v.setWidth 8) = .clear x))) →
    ∃ t : State, step s = .next t ∧ (∀ r : Reg, r ≠ .REJ → r.same s t) ∧ t.msg = s.msg ∧ t.turns = s.turns.tail

/-! ## One block, one run -/

/-- The four PAD steps of block I build Block(msg, LEN, I) (R130), with the message answered and no other agent moving. -/
def Obligations.FourPadStepsBuildTheBlock : Prop :=
  ∀ (s : State) (bytes : List Byte), Inv s → s.turns = [] → s.PHASE = 4#4 → s.LEN.toNat = bytes.length →
    Answers s.msg bytes →
    ∃ t : State, runSteps 4 s = .next t ∧ t.PHASE = 8#4 ∧ (∀ k : Fin 64, t.B[k.val] = blockByte bytes s.I.toNat k.val) ∧
      t.OFF.toNat = min (64 * s.I.toNat) s.LEN.toNat ∧ Frame [.B, .OFF, .NCOPY, .MARKED, .PHASE] s t

/-- The blocks of a message in order are the message, one byte 0x80, zeros, and the bit length as eight big-endian bytes, with
0 to 63 zeros (R126; 10_state.md R45). -/
def Obligations.BlocksTogetherAreThePaddedMessage : Prop :=
  ∀ bytes : List Byte, bytes.length < 2 ^ 61 →
    ∃ z : Nat, z ≤ 63 ∧ z + bytes.length + 9 = 64 * blockCount bytes.length ∧
      ((List.range (blockCount bytes.length)).flatMap fun j => block bytes (j + 1)) =
        bytes ++ [0x80#8] ++ List.replicate z 0x00#8 ++
          ((List.range 8).map fun k => BitVec.ofNat 8 (bytes.length * 8 / 2 ^ (56 - 8 * k)))

/-- WLOAD, WEXP, SEED, sixty-four ROUNDs and ACCUM compute Compress(H, B) (R155, R154). -/
def Obligations.OneBlockIsCompressed : Prop :=
  ∀ s : State, s.turns = [] → s.PHASE = 8#4 →
    ∃ t : State, runSteps 68 s = .next t ∧ t.PHASE = 13#4 ∧
      Working.ofVector t.H = compress (Working.ofVector s.H) s.B.toList ∧ Frame [.H, .V, .W, .T, .PHASE] s t

/-- A run computes Hash (R201) in 4 + 73 N micro-operations (R198): from REST, with a START written next, LEN the length of the
message, a buffer supplied unless the message is empty, every message byte answered and no other turn to come, the run is
busy at each of its steps and ends at REST with DONE = 1, ERR = 0 and D = Hash(msg, len). -/
def Obligations.RunComputesTheHash : Prop :=
  ∀ (s : State) (bytes : List Byte) (v : BitVec 256) (m : Bool),
    s.PHASE = 0#4 → s.turns = [.hostWrite 0 v] → decodeCommand (v.setWidth 8) = .start m →
    s.LEN.toNat = bytes.length → bytes.length < 2 ^ 61 → (bytes = [] ∨ m = true) → Answers s.msg bytes →
    (∀ j : Nat, j < 4 + 73 * blockCount bytes.length →
      ∃ u : State, runSteps (1 + j) s = .next u ∧ u.PHASE ≠ 0#4) ∧
    ∃ t : State, runSteps (1 + (4 + 73 * blockCount bytes.length)) s = .next t ∧ t.PHASE = 0#4 ∧ t.DONE = true ∧
      t.ERR = false ∧ t.D.toList = wholeHash bytes

/-- Every run ends (R197, R199): from a busy state of a run, with no other turn to come and, where CHECK lets the run pass, every
message byte answered, REST with DONE = 1 or ERR = 1 is reached within the 4 + 73 N steps of R198. -/
def Obligations.EveryBusyRunReachesRest : Prop :=
  ∀ s : State, Inv s → s.turns = [] → s.PHASE ≠ 0#4 →
    (s.LEN.toNat < 2 ^ 61 → (s.LEN = 0#64 ∨ s.MSGP = true) → ∀ a : Nat, a < s.LEN.toNat → ∃ b : Byte, s.msg.read a = some b) →
    ∃ (k : Nat) (t : State), k ≤ 4 + 73 * blockCount s.LEN.toNat ∧ runSteps k s = .next t ∧ t.PHASE = 0#4 ∧
      (t.DONE = true ∨ t.ERR = true)

/-- The digest depends on LEN, MSGP and the message bytes below LEN only (R172, R51): two runs that start at CHECK with the same
of those, and anything else different, go through the same PHASE, DONE and error at every step and end with the same D. -/
def Obligations.DigestDependsOnlyOnTheInputs : Prop :=
  ∀ s u : State, s.PHASE = 1#4 → u.PHASE = 1#4 → s.turns = [] → u.turns = [] → s.DONE = false → u.DONE = false →
    s.ERR = false → u.ERR = false → s.ERRCODE = u.ERRCODE → s.LEN = u.LEN → s.MSGP = u.MSGP →
    (∀ a : Nat, a < s.LEN.toNat → s.msg.read a = u.msg.read a) →
    ∀ k : Nat, ∃ s' u' : State, runSteps k s = .next s' ∧ runSteps k u = .next u' ∧
      s'.PHASE = u'.PHASE ∧ s'.DONE = u'.DONE ∧ s'.ERR = u'.ERR ∧ s'.ERRCODE = u'.ERRCODE ∧ (s'.DONE = true → s'.D = u'.D)
end

