-- ==== Sys2Proof/Laws/State.lean ====
section
/-!
SUPPORT. What each named update of the state leaves in each field, by definition.
-/

namespace Sys2Proof.Machine

section
variable (s : State) (p : BitVec 4)

@[simp] theorem State.goto_H : (s.goto p).H = s.H := rfl
@[simp] theorem State.goto_V : (s.goto p).V = s.V := rfl
@[simp] theorem State.goto_W : (s.goto p).W = s.W := rfl
@[simp] theorem State.goto_B : (s.goto p).B = s.B := rfl
@[simp] theorem State.goto_D : (s.goto p).D = s.D := rfl
@[simp] theorem State.goto_LEN : (s.goto p).LEN = s.LEN := rfl
@[simp] theorem State.goto_N : (s.goto p).N = s.N := rfl
@[simp] theorem State.goto_I : (s.goto p).I = s.I := rfl
@[simp] theorem State.goto_OFF : (s.goto p).OFF = s.OFF := rfl
@[simp] theorem State.goto_T : (s.goto p).T = s.T := rfl
@[simp] theorem State.goto_NCOPY : (s.goto p).NCOPY = s.NCOPY := rfl
@[simp] theorem State.goto_MARKED : (s.goto p).MARKED = s.MARKED := rfl
@[simp] theorem State.goto_MSGP : (s.goto p).MSGP = s.MSGP := rfl
@[simp] theorem State.goto_PHASE : (s.goto p).PHASE = p := rfl
@[simp] theorem State.goto_DONE : (s.goto p).DONE = s.DONE := rfl
@[simp] theorem State.goto_ERR : (s.goto p).ERR = s.ERR := rfl
@[simp] theorem State.goto_ERRCODE : (s.goto p).ERRCODE = s.ERRCODE := rfl
@[simp] theorem State.goto_REJ : (s.goto p).REJ = s.REJ := rfl
@[simp] theorem State.goto_msg : (s.goto p).msg = s.msg := rfl
@[simp] theorem State.goto_turns : (s.goto p).turns = s.turns := rfl
@[simp] theorem State.goto_lastRead : (s.goto p).lastRead = s.lastRead := rfl
@[simp] theorem State.goto_fresh : (s.goto p).fresh = s.fresh := rfl

end

section
variable (s : State) (n : BitVec 2)

@[simp] theorem State.raise_H : (s.raise n).H = s.H := rfl
@[simp] theorem State.raise_V : (s.raise n).V = s.V := rfl
@[simp] theorem State.raise_W : (s.raise n).W = s.W := rfl
@[simp] theorem State.raise_B : (s.raise n).B = s.B := rfl
@[simp] theorem State.raise_D : (s.raise n).D = s.D := rfl
@[simp] theorem State.raise_LEN : (s.raise n).LEN = s.LEN := rfl
@[simp] theorem State.raise_N : (s.raise n).N = s.N := rfl
@[simp] theorem State.raise_I : (s.raise n).I = s.I := rfl
@[simp] theorem State.raise_OFF : (s.raise n).OFF = s.OFF := rfl
@[simp] theorem State.raise_T : (s.raise n).T = s.T := rfl
@[simp] theorem State.raise_NCOPY : (s.raise n).NCOPY = s.NCOPY := rfl
@[simp] theorem State.raise_MARKED : (s.raise n).MARKED = s.MARKED := rfl
@[simp] theorem State.raise_MSGP : (s.raise n).MSGP = s.MSGP := rfl
@[simp] theorem State.raise_PHASE : (s.raise n).PHASE = 0#4 := rfl
@[simp] theorem State.raise_DONE : (s.raise n).DONE = false := rfl
@[simp] theorem State.raise_ERR : (s.raise n).ERR = true := rfl
@[simp] theorem State.raise_ERRCODE : (s.raise n).ERRCODE = n := rfl
@[simp] theorem State.raise_REJ : (s.raise n).REJ = s.REJ := rfl
@[simp] theorem State.raise_msg : (s.raise n).msg = s.msg := rfl
@[simp] theorem State.raise_turns : (s.raise n).turns = s.turns := rfl
@[simp] theorem State.raise_lastRead : (s.raise n).lastRead = s.lastRead := rfl
@[simp] theorem State.raise_fresh : (s.raise n).fresh = s.fresh := rfl

end

section
variable (s : State)

@[simp] theorem State.clearResult_H : (s.clearResult).H = s.H := rfl
@[simp] theorem State.clearResult_V : (s.clearResult).V = s.V := rfl
@[simp] theorem State.clearResult_W : (s.clearResult).W = s.W := rfl
@[simp] theorem State.clearResult_B : (s.clearResult).B = s.B := rfl
@[simp] theorem State.clearResult_D : (s.clearResult).D = s.D := rfl
@[simp] theorem State.clearResult_LEN : (s.clearResult).LEN = s.LEN := rfl
@[simp] theorem State.clearResult_N : (s.clearResult).N = s.N := rfl
@[simp] theorem State.clearResult_I : (s.clearResult).I = s.I := rfl
@[simp] theorem State.clearResult_OFF : (s.clearResult).OFF = s.OFF := rfl
@[simp] theorem State.clearResult_T : (s.clearResult).T = s.T := rfl
@[simp] theorem State.clearResult_NCOPY : (s.clearResult).NCOPY = s.NCOPY := rfl
@[simp] theorem State.clearResult_MARKED : (s.clearResult).MARKED = s.MARKED := rfl
@[simp] theorem State.clearResult_MSGP : (s.clearResult).MSGP = s.MSGP := rfl
@[simp] theorem State.clearResult_PHASE : (s.clearResult).PHASE = s.PHASE := rfl
@[simp] theorem State.clearResult_DONE : (s.clearResult).DONE = false := rfl
@[simp] theorem State.clearResult_ERR : (s.clearResult).ERR = false := rfl
@[simp] theorem State.clearResult_ERRCODE : (s.clearResult).ERRCODE = 0#2 := rfl
@[simp] theorem State.clearResult_REJ : (s.clearResult).REJ = s.REJ := rfl
@[simp] theorem State.clearResult_msg : (s.clearResult).msg = s.msg := rfl
@[simp] theorem State.clearResult_turns : (s.clearResult).turns = s.turns := rfl
@[simp] theorem State.clearResult_lastRead : (s.clearResult).lastRead = s.lastRead := rfl
@[simp] theorem State.clearResult_fresh : (s.clearResult).fresh = s.fresh := rfl

end

section
variable (s : State)

@[simp] theorem State.drop_H : (s.drop).H = s.H := rfl
@[simp] theorem State.drop_V : (s.drop).V = s.V := rfl
@[simp] theorem State.drop_W : (s.drop).W = s.W := rfl
@[simp] theorem State.drop_B : (s.drop).B = s.B := rfl
@[simp] theorem State.drop_D : (s.drop).D = s.D := rfl
@[simp] theorem State.drop_LEN : (s.drop).LEN = s.LEN := rfl
@[simp] theorem State.drop_N : (s.drop).N = s.N := rfl
@[simp] theorem State.drop_I : (s.drop).I = s.I := rfl
@[simp] theorem State.drop_OFF : (s.drop).OFF = s.OFF := rfl
@[simp] theorem State.drop_T : (s.drop).T = s.T := rfl
@[simp] theorem State.drop_NCOPY : (s.drop).NCOPY = s.NCOPY := rfl
@[simp] theorem State.drop_MARKED : (s.drop).MARKED = s.MARKED := rfl
@[simp] theorem State.drop_MSGP : (s.drop).MSGP = s.MSGP := rfl
@[simp] theorem State.drop_PHASE : (s.drop).PHASE = s.PHASE := rfl
@[simp] theorem State.drop_DONE : (s.drop).DONE = s.DONE := rfl
@[simp] theorem State.drop_ERR : (s.drop).ERR = s.ERR := rfl
@[simp] theorem State.drop_ERRCODE : (s.drop).ERRCODE = s.ERRCODE := rfl
@[simp] theorem State.drop_REJ : (s.drop).REJ = true := rfl
@[simp] theorem State.drop_msg : (s.drop).msg = s.msg := rfl
@[simp] theorem State.drop_turns : (s.drop).turns = s.turns := rfl
@[simp] theorem State.drop_lastRead : (s.drop).lastRead = s.lastRead := rfl
@[simp] theorem State.drop_fresh : (s.drop).fresh = s.fresh := rfl

end

section
variable (s : State) (v : HostValue)

@[simp] theorem State.answer_H : (s.answer v).H = s.H := rfl
@[simp] theorem State.answer_V : (s.answer v).V = s.V := rfl
@[simp] theorem State.answer_W : (s.answer v).W = s.W := rfl
@[simp] theorem State.answer_B : (s.answer v).B = s.B := rfl
@[simp] theorem State.answer_D : (s.answer v).D = s.D := rfl
@[simp] theorem State.answer_LEN : (s.answer v).LEN = s.LEN := rfl
@[simp] theorem State.answer_N : (s.answer v).N = s.N := rfl
@[simp] theorem State.answer_I : (s.answer v).I = s.I := rfl
@[simp] theorem State.answer_OFF : (s.answer v).OFF = s.OFF := rfl
@[simp] theorem State.answer_T : (s.answer v).T = s.T := rfl
@[simp] theorem State.answer_NCOPY : (s.answer v).NCOPY = s.NCOPY := rfl
@[simp] theorem State.answer_MARKED : (s.answer v).MARKED = s.MARKED := rfl
@[simp] theorem State.answer_MSGP : (s.answer v).MSGP = s.MSGP := rfl
@[simp] theorem State.answer_PHASE : (s.answer v).PHASE = s.PHASE := rfl
@[simp] theorem State.answer_DONE : (s.answer v).DONE = s.DONE := rfl
@[simp] theorem State.answer_ERR : (s.answer v).ERR = s.ERR := rfl
@[simp] theorem State.answer_ERRCODE : (s.answer v).ERRCODE = s.ERRCODE := rfl
@[simp] theorem State.answer_REJ : (s.answer v).REJ = s.REJ := rfl
@[simp] theorem State.answer_msg : (s.answer v).msg = s.msg := rfl
@[simp] theorem State.answer_turns : (s.answer v).turns = s.turns := rfl
@[simp] theorem State.answer_lastRead : (s.answer v).lastRead = some v := rfl
@[simp] theorem State.answer_fresh : (s.answer v).fresh = s.fresh := rfl

end

section
variable (s : State)

@[simp] theorem State.drawn_H : (s.drawn).H = s.H := rfl
@[simp] theorem State.drawn_V : (s.drawn).V = s.V := rfl
@[simp] theorem State.drawn_W : (s.drawn).W = s.W := rfl
@[simp] theorem State.drawn_B : (s.drawn).B = s.B := rfl
@[simp] theorem State.drawn_D : (s.drawn).D = s.D := rfl
@[simp] theorem State.drawn_LEN : (s.drawn).LEN = s.LEN := rfl
@[simp] theorem State.drawn_N : (s.drawn).N = s.N := rfl
@[simp] theorem State.drawn_I : (s.drawn).I = s.I := rfl
@[simp] theorem State.drawn_OFF : (s.drawn).OFF = s.OFF := rfl
@[simp] theorem State.drawn_T : (s.drawn).T = s.T := rfl
@[simp] theorem State.drawn_NCOPY : (s.drawn).NCOPY = s.NCOPY := rfl
@[simp] theorem State.drawn_MARKED : (s.drawn).MARKED = s.MARKED := rfl
@[simp] theorem State.drawn_MSGP : (s.drawn).MSGP = s.MSGP := rfl
@[simp] theorem State.drawn_PHASE : (s.drawn).PHASE = s.PHASE := rfl
@[simp] theorem State.drawn_DONE : (s.drawn).DONE = s.DONE := rfl
@[simp] theorem State.drawn_ERR : (s.drawn).ERR = s.ERR := rfl
@[simp] theorem State.drawn_ERRCODE : (s.drawn).ERRCODE = s.ERRCODE := rfl
@[simp] theorem State.drawn_REJ : (s.drawn).REJ = s.REJ := rfl
@[simp] theorem State.drawn_msg : (s.drawn).msg = s.msg := rfl
@[simp] theorem State.drawn_turns : (s.drawn).turns = s.turns := rfl
@[simp] theorem State.drawn_lastRead : (s.drawn).lastRead = s.lastRead := rfl
@[simp] theorem State.drawn_fresh : (s.drawn).fresh = s.fresh + 1 := rfl

end

section
variable (s : State)

@[simp] theorem State.resetInput_H : (s.resetInput).H = s.H := rfl
@[simp] theorem State.resetInput_V : (s.resetInput).V = s.V := rfl
@[simp] theorem State.resetInput_W : (s.resetInput).W = s.W := rfl
@[simp] theorem State.resetInput_B : (s.resetInput).B = s.B := rfl
@[simp] theorem State.resetInput_D : (s.resetInput).D = s.D := rfl
@[simp] theorem State.resetInput_LEN : (s.resetInput).LEN = 0#64 := rfl
@[simp] theorem State.resetInput_N : (s.resetInput).N = s.N := rfl
@[simp] theorem State.resetInput_I : (s.resetInput).I = s.I := rfl
@[simp] theorem State.resetInput_OFF : (s.resetInput).OFF = s.OFF := rfl
@[simp] theorem State.resetInput_T : (s.resetInput).T = s.T := rfl
@[simp] theorem State.resetInput_NCOPY : (s.resetInput).NCOPY = s.NCOPY := rfl
@[simp] theorem State.resetInput_MARKED : (s.resetInput).MARKED = s.MARKED := rfl
@[simp] theorem State.resetInput_MSGP : (s.resetInput).MSGP = false := rfl
@[simp] theorem State.resetInput_PHASE : (s.resetInput).PHASE = 0#4 := rfl
@[simp] theorem State.resetInput_DONE : (s.resetInput).DONE = false := rfl
@[simp] theorem State.resetInput_ERR : (s.resetInput).ERR = false := rfl
@[simp] theorem State.resetInput_ERRCODE : (s.resetInput).ERRCODE = 0#2 := rfl
@[simp] theorem State.resetInput_REJ : (s.resetInput).REJ = false := rfl
@[simp] theorem State.resetInput_msg : (s.resetInput).msg = s.msg := rfl
@[simp] theorem State.resetInput_turns : (s.resetInput).turns = s.turns := rfl
@[simp] theorem State.resetInput_lastRead : (s.resetInput).lastRead = s.lastRead := rfl
@[simp] theorem State.resetInput_fresh : (s.resetInput).fresh = s.fresh := rfl

end

section
variable (s : State) (a : BitVec 61) (v : Option Byte)

@[simp] theorem State.setAnswer_H : (s.setAnswer a v).H = s.H := rfl
@[simp] theorem State.setAnswer_V : (s.setAnswer a v).V = s.V := rfl
@[simp] theorem State.setAnswer_W : (s.setAnswer a v).W = s.W := rfl
@[simp] theorem State.setAnswer_B : (s.setAnswer a v).B = s.B := rfl
@[simp] theorem State.setAnswer_D : (s.setAnswer a v).D = s.D := rfl
@[simp] theorem State.setAnswer_LEN : (s.setAnswer a v).LEN = s.LEN := rfl
@[simp] theorem State.setAnswer_N : (s.setAnswer a v).N = s.N := rfl
@[simp] theorem State.setAnswer_I : (s.setAnswer a v).I = s.I := rfl
@[simp] theorem State.setAnswer_OFF : (s.setAnswer a v).OFF = s.OFF := rfl
@[simp] theorem State.setAnswer_T : (s.setAnswer a v).T = s.T := rfl
@[simp] theorem State.setAnswer_NCOPY : (s.setAnswer a v).NCOPY = s.NCOPY := rfl
@[simp] theorem State.setAnswer_MARKED : (s.setAnswer a v).MARKED = s.MARKED := rfl
@[simp] theorem State.setAnswer_MSGP : (s.setAnswer a v).MSGP = s.MSGP := rfl
@[simp] theorem State.setAnswer_PHASE : (s.setAnswer a v).PHASE = s.PHASE := rfl
@[simp] theorem State.setAnswer_DONE : (s.setAnswer a v).DONE = s.DONE := rfl
@[simp] theorem State.setAnswer_ERR : (s.setAnswer a v).ERR = s.ERR := rfl
@[simp] theorem State.setAnswer_ERRCODE : (s.setAnswer a v).ERRCODE = s.ERRCODE := rfl
@[simp] theorem State.setAnswer_REJ : (s.setAnswer a v).REJ = s.REJ := rfl
@[simp] theorem State.setAnswer_msg : (s.setAnswer a v).msg = s.msg.write a.toNat v := rfl
@[simp] theorem State.setAnswer_turns : (s.setAnswer a v).turns = s.turns := rfl
@[simp] theorem State.setAnswer_lastRead : (s.setAnswer a v).lastRead = s.lastRead := rfl
@[simp] theorem State.setAnswer_fresh : (s.setAnswer a v).fresh = s.fresh := rfl

end

section
variable (s : State)

@[simp] theorem State.popTurn_H : (s.popTurn).H = s.H := rfl
@[simp] theorem State.popTurn_V : (s.popTurn).V = s.V := rfl
@[simp] theorem State.popTurn_W : (s.popTurn).W = s.W := rfl
@[simp] theorem State.popTurn_B : (s.popTurn).B = s.B := rfl
@[simp] theorem State.popTurn_D : (s.popTurn).D = s.D := rfl
@[simp] theorem State.popTurn_LEN : (s.popTurn).LEN = s.LEN := rfl
@[simp] theorem State.popTurn_N : (s.popTurn).N = s.N := rfl
@[simp] theorem State.popTurn_I : (s.popTurn).I = s.I := rfl
@[simp] theorem State.popTurn_OFF : (s.popTurn).OFF = s.OFF := rfl
@[simp] theorem State.popTurn_T : (s.popTurn).T = s.T := rfl
@[simp] theorem State.popTurn_NCOPY : (s.popTurn).NCOPY = s.NCOPY := rfl
@[simp] theorem State.popTurn_MARKED : (s.popTurn).MARKED = s.MARKED := rfl
@[simp] theorem State.popTurn_MSGP : (s.popTurn).MSGP = s.MSGP := rfl
@[simp] theorem State.popTurn_PHASE : (s.popTurn).PHASE = s.PHASE := rfl
@[simp] theorem State.popTurn_DONE : (s.popTurn).DONE = s.DONE := rfl
@[simp] theorem State.popTurn_ERR : (s.popTurn).ERR = s.ERR := rfl
@[simp] theorem State.popTurn_ERRCODE : (s.popTurn).ERRCODE = s.ERRCODE := rfl
@[simp] theorem State.popTurn_REJ : (s.popTurn).REJ = s.REJ := rfl
@[simp] theorem State.popTurn_msg : (s.popTurn).msg = s.msg := rfl
@[simp] theorem State.popTurn_turns : (s.popTurn).turns = s.turns.tail := rfl
@[simp] theorem State.popTurn_lastRead : (s.popTurn).lastRead = s.lastRead := rfl
@[simp] theorem State.popTurn_fresh : (s.popTurn).fresh = s.fresh := rfl

end

/-! ## Turns -/

@[simp] theorem State.turn_of_nil (s : State) (h : s.turns = []) : s.turn = .sequencer := by
  simp [State.turn, h]

@[simp] theorem State.turn_of_cons (s : State) (t : Turn) (ts : List Turn) (h : s.turns = t :: ts) : s.turn = t := by
  simp [State.turn, h]

theorem State.popTurn_of_nil (s : State) (h : s.turns = []) : s.popTurn = s := by
  cases s
  simp_all [State.popTurn]

theorem State.popTurn_of_cons (s : State) (t : Turn) (ts : List Turn) (h : s.turns = t :: ts) :
    s.popTurn = { s with turns := ts } := by
  simp [State.popTurn, h]

end Sys2Proof.Machine
end

