-- ==== Sys2Proof/Laws/Exec.lean ====
section
/-!
SUPPORT. One lemma per meaning that has more than one outcome: everything it can answer. Later proofs cite these and do not
unfold the meanings.
-/

namespace Sys2Proof.Machine

theorem execStart_cases (m : Bool) (s t : State) (h : execStart m s = .next t) :
    (s.PHASE = 0#4 ∧ t = { s.clearResult with MSGP := m }.goto 1#4) ∨ (s.PHASE ≠ 0#4 ∧ t = s.drop) := by
  unfold execStart at h
  split at h
  · exact .inl ⟨‹_›, by injection h with h; exact h.symm⟩
  · exact .inr ⟨‹_›, by injection h with h; exact h.symm⟩

theorem execClear_cases (x : Bool) (s t : State) (h : execClear x s = .next t) :
    t = { s.clearResult with REJ := false, MSGP := false }.goto 0#4 := by
  injection h with h
  exact h.symm

theorem illegalCommand_cases (s t : State) (h : illegalCommand s = .next t) :
    (s.PHASE = 0#4 ∧ t = s.raise 3#2) ∨ (s.PHASE ≠ 0#4 ∧ t = s.drop) := by
  unfold illegalCommand at h
  split at h
  · exact .inl ⟨‹_›, by injection h with h; exact h.symm⟩
  · exact .inr ⟨‹_›, by injection h with h; exact h.symm⟩

theorem execWrcmd_cases (c : BitVec 8) (s t : State) (h : execWrcmd c s = .next t) :
    (∃ x, decodeCommand c = .nop x ∧ t = s) ∨
    (∃ m, decodeCommand c = .start m ∧ execStart m s = .next t) ∨
    (∃ x, decodeCommand c = .clear x ∧ execClear x s = .next t) ∨
    (∃ b, decodeCommand c = .illegal b ∧ illegalCommand s = .next t) := by
  unfold execWrcmd at h
  cases hc : decodeCommand c <;> simp only [hc] at h
  · exact .inl ⟨_, rfl, by injection h with h; exact h.symm⟩
  · exact .inr (.inl ⟨_, rfl, h⟩)
  · exact .inr (.inr (.inl ⟨_, rfl, h⟩))
  · exact .inr (.inr (.inr ⟨_, rfl, h⟩))

theorem execWrlen_cases (v : BitVec 64) (s t : State) (h : execWrlen v s = .next t) :
    (s.PHASE = 0#4 ∧ t = { s with LEN := v }) ∨ (s.PHASE ≠ 0#4 ∧ t = s.drop) := by
  unfold execWrlen at h
  split at h
  · exact .inl ⟨‹_›, by injection h with h; exact h.symm⟩
  · exact .inr ⟨‹_›, by injection h with h; exact h.symm⟩

theorem execRddigest_cases (s t : State) (h : execRddigest s = .next t) :
    (s.DONE = true ∧ t = s.answer (.digest s.digest)) ∨
      (s.DONE = false ∧ t = (s.answer (.digest (Config.freeDigest s.fresh))).drawn) := by
  unfold execRddigest at h
  split at h
  · exact .inl ⟨‹_›, by injection h with h; exact h.symm⟩
  · rename_i hd
    exact .inr ⟨by simpa using hd, by injection h with h; exact h.symm⟩

theorem execCheck_cases (s t : State) (h : execCheck s = .next t) :
    (2 ^ 61 ≤ s.LEN.toNat ∧ t = s.raise 1#2) ∨
    (s.LEN.toNat < 2 ^ 61 ∧ s.LEN ≠ 0#64 ∧ s.MSGP = false ∧ t = s.raise 2#2) ∨
    (s.LEN.toNat < 2 ^ 61 ∧ (s.LEN = 0#64 ∨ s.MSGP = true) ∧ t = s.goto 2#4) := by
  unfold execCheck at h
  split at h
  · exact .inl ⟨‹_›, by injection h with h; exact h.symm⟩
  · rename_i hlen
    have hlen : s.LEN.toNat < 2 ^ 61 := Nat.not_le.mp hlen
    split at h
    · rename_i hb
      exact .inr (.inl ⟨hlen, hb.1, hb.2, by injection h with h; exact h.symm⟩)
    · rename_i hb
      refine .inr (.inr ⟨hlen, ?_, by injection h with h; exact h.symm⟩)
      by_cases h0 : s.LEN = 0#64
      · exact .inl h0
      · exact .inr (by simpa [h0] using hb)

theorem execBcopy_cases (s t : State) (h : execBcopy s = .next t) :
    (readFrom s.msg s.OFF 0 (copyCount s) = none ∧ t = s) ∨
    (∃ bytes, readFrom s.msg s.OFF 0 (copyCount s) = some bytes ∧
      t = { s with
        B := tabulate 64 fun k => bytes.getD k.val s.B[k.val]
        OFF := s.OFF + BitVec.ofNat 61 (copyCount s)
        NCOPY := BitVec.ofNat 7 (copyCount s) }.goto 6#4) := by
  unfold execBcopy at h
  split at h
  · exact .inl ⟨‹_›, by injection h with h; exact h.symm⟩
  · exact .inr ⟨_, ‹_›, by injection h with h; exact h.symm⟩

theorem execBmark_cases (s t : State) (h : execBmark s = .next t) :
    (s.MARKED = false ∧ s.NCOPY.toNat < 64 ∧
      t = { s with
        B := tabulate 64 fun k => if k.val = s.NCOPY.toNat then 0x80#8 else s.B[k.val]
        MARKED := true }.goto 7#4) ∨
    ((s.MARKED = true ∨ 64 ≤ s.NCOPY.toNat) ∧ t = s.goto 7#4) := by
  unfold execBmark at h
  split at h
  · rename_i hb
    exact .inl ⟨hb.1, hb.2, by injection h with h; exact h.symm⟩
  · rename_i hb
    refine .inr ⟨?_, by injection h with h; exact h.symm⟩
    by_cases hm : s.MARKED = true
    · exact .inl hm
    · exact .inr (Nat.not_lt.mp fun hl => hb ⟨by simpa using hm, hl⟩)

theorem execBlen_cases (s t : State) (h : execBlen s = .next t) :
    (s.I = s.N ∧ t = { s with
      B := tabulate 64 fun k => if 56 ≤ k.val then be64 (bitLength s) (k.val - 56) else s.B[k.val] }.goto 8#4) ∨
    (s.I ≠ s.N ∧ t = s.goto 8#4) := by
  unfold execBlen at h
  split at h
  · exact .inl ⟨‹_›, by injection h with h; exact h.symm⟩
  · exact .inr ⟨‹_›, by injection h with h; exact h.symm⟩

theorem execNext_cases (s t : State) (h : execNext s = .next t) :
    (s.I = s.N ∧ t = s.goto 14#4) ∨ (s.I ≠ s.N ∧ t = { s with I := s.I + 1#56 }.goto 4#4) := by
  unfold execNext at h
  split at h
  · exact .inl ⟨‹_›, by injection h with h; exact h.symm⟩
  · exact .inr ⟨‹_›, by injection h with h; exact h.symm⟩

/-- No instruction touches the message memory or the turns. -/
theorem exec_keeps_outside (i : Instr) (s t : State) (h : exec i s = .next t) : t.msg = s.msg ∧ t.turns = s.turns := by
  have hstart : ∀ m, execStart m s = .next t → t.msg = s.msg ∧ t.turns = s.turns := by
    intro m h
    rcases execStart_cases _ _ _ h with ⟨-, rfl⟩ | ⟨-, rfl⟩ <;> exact ⟨rfl, rfl⟩
  cases i <;> simp only [exec] at h
  case start => exact hstart _ h
  case check => rcases execCheck_cases _ _ h with ⟨-, rfl⟩ | ⟨-, -, -, rfl⟩ | ⟨-, -, rfl⟩ <;> exact ⟨rfl, rfl⟩
  case bcopy => rcases execBcopy_cases _ _ h with ⟨-, rfl⟩ | ⟨_, -, rfl⟩ <;> exact ⟨rfl, rfl⟩
  case bmark => rcases execBmark_cases _ _ h with ⟨-, -, rfl⟩ | ⟨-, rfl⟩ <;> exact ⟨rfl, rfl⟩
  case blen => rcases execBlen_cases _ _ h with ⟨-, rfl⟩ | ⟨-, rfl⟩ <;> exact ⟨rfl, rfl⟩
  case next => rcases execNext_cases _ _ h with ⟨-, rfl⟩ | ⟨-, rfl⟩ <;> exact ⟨rfl, rfl⟩
  case rddigest => rcases execRddigest_cases _ _ h with ⟨-, rfl⟩ | ⟨-, rfl⟩ <;> exact ⟨rfl, rfl⟩
  case wrlen => rcases execWrlen_cases _ _ _ h with ⟨-, rfl⟩ | ⟨-, rfl⟩ <;> exact ⟨rfl, rfl⟩
  case wrcmd =>
    rcases execWrcmd_cases _ _ _ h with ⟨_, -, rfl⟩ | ⟨_, -, h⟩ | ⟨_, -, h⟩ | ⟨_, -, h⟩
    · exact ⟨rfl, rfl⟩
    · exact hstart _ h
    · rw [execClear_cases _ _ _ h]; exact ⟨rfl, rfl⟩
    · rcases illegalCommand_cases _ _ h with ⟨-, rfl⟩ | ⟨-, rfl⟩ <;> exact ⟨rfl, rfl⟩
  all_goals injection h with h; subst h; exact ⟨rfl, rfl⟩

end Sys2Proof.Machine
end

