-- ==== Sys2Proof/Laws/Files.lean ====
section
/-!
SUPPORT. Register files: what `tabulate` holds, one lemma per loop of the micro-operations.
-/

namespace Sys2Proof.Machine

@[simp] theorem getElem_tabulate {α : Type} {n : Nat} (f : Fin n → α) (i : Nat) (h : i < n) :
    (tabulate n f)[i] = f ⟨i, h⟩ := by
  simp [tabulate]

theorem toList_tabulate {α : Type} {n : Nat} (f : Fin n → α) : (tabulate n f).toList = List.ofFn f := by
  simp [tabulate]

theorem wordAt_of_lt (W : Vector Word 64) (t : Nat) (h : t < 64) : wordAt W t = W[t] := by
  simp [wordAt, h]

/-- WEXP's loop leaves the words outside its range alone. -/
theorem expandFrom_outside (n t : Nat) (W : Vector Word 64) (i : Nat) (hi : i < 64) (h : i < t ∨ t + n ≤ i) :
    (expandFrom n t W)[i] = W[i] := by
  induction n generalizing t W with
  | zero => rfl
  | succ n ih =>
    rw [expandFrom, ih _ _ (by omega)]
    have : i ≠ t := by omega
    simp [this]

/-- A new schedule word depends on the words below it only. -/
theorem scheduleStep_congr (W W' : Vector Word 64) (t : Nat) (ht : 16 ≤ t) (h : ∀ j, j < t → wordAt W j = wordAt W' j) :
    scheduleStep W t = scheduleStep W' t := by
  rw [scheduleStep, scheduleStep, h (t - 2) (by omega), h (t - 7) (by omega), h (t - 15) (by omega), h (t - 16) (by omega)]

theorem wordAt_expandFrom_below (n t : Nat) (W : Vector Word 64) (j : Nat) (h : j < t) :
    wordAt (expandFrom n t W) j = wordAt W j := by
  by_cases hj : j < 64
  · rw [wordAt_of_lt _ _ hj, wordAt_of_lt _ _ hj, expandFrom_outside _ _ _ _ hj (.inl h)]
  · simp [wordAt, hj]

/-- WEXP's loop writes each word of its range by the recurrence over its own result. -/
theorem expandFrom_inside (n t : Nat) (W : Vector Word 64) (i : Nat) (hi : i < 64) (ht : 16 ≤ t) (h : t ≤ i) (hn : i < t + n) :
    (expandFrom n t W)[i] = scheduleStep (expandFrom n t W) i := by
  induction n generalizing t W with
  | zero => omega
  | succ n ih =>
    by_cases hit : i = t
    · subst hit
      rw [scheduleStep_congr (expandFrom (n + 1) i W) W i ht fun j hj => wordAt_expandFrom_below _ _ _ _ hj]
      rw [expandFrom, expandFrom_outside _ _ _ _ hi (by omega)]
      simp
    · exact ih (t + 1) _ (by omega) (by omega) (by omega)

end Sys2Proof.Machine
end

