-- ==== Sys2Proof/Laws/Flags.lean ====
section
/-!
SUPPORT. The fields of the STATUS word (10_state.md R41), and the digits of the DIGEST number (R25).
-/

namespace Sys2Proof.Machine

theorem State.status_bit0 (s : State) : s.status.getLsbD 0 = s.busy := by
  simp only [State.status, BitVec.getLsbD_append]; simp

theorem State.status_bit1 (s : State) : s.status.getLsbD 1 = s.DONE := by
  simp only [State.status, BitVec.getLsbD_append]; simp

theorem State.status_bit2 (s : State) : s.status.getLsbD 2 = s.ERR := by
  simp only [State.status, BitVec.getLsbD_append]; simp

theorem State.status_bit3 (s : State) : s.status.getLsbD 3 = s.REJ := by
  simp only [State.status, BitVec.getLsbD_append]; simp

theorem State.status_errcode (s : State) : s.status.extractLsb' 4 2 = s.ERRCODE := by
  apply BitVec.eq_of_getLsbD_eq
  intro i hi
  simp only [State.status, BitVec.getLsbD_append, BitVec.getLsbD_extractLsb']
  interval_cases i <;> simp

theorem State.status_reserved6 (s : State) : s.status.extractLsb' 6 2 = 0#2 := by
  apply BitVec.eq_of_getLsbD_eq
  intro i hi
  simp only [State.status, BitVec.getLsbD_append, BitVec.getLsbD_extractLsb']
  interval_cases i <;> simp

theorem State.status_phase (s : State) : s.status.extractLsb' 8 4 = s.PHASE := by
  apply BitVec.eq_of_getLsbD_eq
  intro i hi
  simp only [State.status, BitVec.getLsbD_append, BitVec.getLsbD_extractLsb']
  interval_cases i <;> simp

theorem State.status_reserved12 (s : State) : s.status.extractLsb' 12 4 = 0#4 := by
  apply BitVec.eq_of_getLsbD_eq
  intro i hi
  simp only [State.status, BitVec.getLsbD_append, BitVec.getLsbD_extractLsb']
  interval_cases i <;> simp

theorem State.busy_iff (s : State) : s.busy = true ↔ s.PHASE ≠ 0#4 := by
  simp [State.busy]

/-- Appending a byte to a number of bytes: the older bytes move up one place. -/
theorem bytesToNumber_append (bs : List Byte) (b : Byte) :
    bytesToNumber (bs ++ [b]) = (bytesToNumber bs <<< 8) ||| b.setWidth 256 := by
  simp [bytesToNumber]

/-- Byte `k` of the number is the `k`-th byte of the list, the first the most significant. -/
theorem bytesToNumber_byte (bs : List Byte) (h : bs.length ≤ 32) (k : Nat) (hk : k < bs.length) (i : Nat) (hi : i < 8) :
    (bytesToNumber bs).getLsbD (8 * (bs.length - 1 - k) + i) = (bs.getD k 0#8).getLsbD i := by
  induction bs using List.reverseRecOn with
  | nil => simp at hk
  | append_singleton bs b ih =>
    rw [bytesToNumber_append]
    simp only [List.length_append, List.length_cons, List.length_nil] at *
    rw [BitVec.getLsbD_or, BitVec.getLsbD_shiftLeft, BitVec.getLsbD_setWidth]
    by_cases hlast : k = bs.length
    · subst hlast
      simp [hi]
      omega
    · have hkb : k < bs.length := by omega
      have e : 8 * (bs.length + 0 + 1 - 1 - k) + i = 8 * (bs.length - 1 - k) + i + 8 := by omega
      have hb : b.getLsbD (8 * (bs.length - 1 - k) + i + 8) = false := BitVec.getLsbD_of_ge _ _ (by omega)
      have hlt : 8 * (bs.length - 1 - k) + i + 8 < 256 := by omega
      have hsub : 8 * (bs.length - 1 - k) + i + 8 - 8 = 8 * (bs.length - 1 - k) + i := by omega
      rw [show bs.length + (0 + 1) - 1 - k = bs.length - k by omega]
      rw [show 8 * (bs.length - k) + i = 8 * (bs.length - 1 - k) + i + 8 by omega, hb, hsub, ih (by omega) hkb]
      simp [hlt, List.getElem?_append_left hkb]

end Sys2Proof.Machine
end

