-- ==== Sys2Proof/Laws/Memory.lean ====
section
/-!
SUPPORT. The message memory: reading after a write, the canonical form, and what a row of reads gives.
-/

namespace Sys2Proof.Machine

@[simp] theorem Memory.read_nil (a : Nat) : Memory.read [] a = none := rfl

theorem Memory.read_cons (c : Nat) (x : Byte) (m : Memory) (a : Nat) :
    Memory.read ((c, x) :: m) a = if c = a then some x else m.read a := rfl

theorem Memory.risesFrom_cons (lo c : Nat) (x : Byte) (m : Memory) :
    Memory.risesFrom lo ((c, x) :: m) = true ↔ (lo ≤ c ∧ c < 2 ^ 61) ∧ m.risesFrom (c + 1) = true := by
  simp only [Memory.risesFrom, Bool.and_eq_true, decide_eq_true_eq]

/-- Nothing is listed below the start of a rising list. -/
theorem Memory.read_below (m : Memory) (lo a : Nat) (h : m.risesFrom lo = true) (ha : a < lo) : m.read a = none := by
  induction m generalizing lo with
  | nil => rfl
  | cons cell rest ih =>
    obtain ⟨c, x⟩ := cell
    rw [Memory.risesFrom_cons] at h
    rw [Memory.read_cons, if_neg (by omega), ih (c + 1) h.2 (by omega)]

theorem Memory.risesFrom_mono (m : Memory) (lo lo' : Nat) (h : m.risesFrom lo = true) (hl : lo' ≤ lo) :
    m.risesFrom lo' = true := by
  cases m with
  | nil => rfl
  | cons cell rest =>
    rw [Memory.risesFrom_cons] at h ⊢
    exact ⟨⟨by omega, h.1.2⟩, h.2⟩

theorem Memory.read_cellOf_append (a : Nat) (v : Option Byte) (m : Memory) (x : Nat) (hm : m.risesFrom (a + 1) = true) :
    Memory.read (Memory.cellOf a v ++ m) x = if x = a then v else m.read x := by
  cases v with
  | none =>
    by_cases h : x = a
    · simpa [Memory.cellOf, h] using Memory.read_below m (a + 1) a hm (by omega)
    · simp [Memory.cellOf, h]
  | some b =>
    by_cases h : x = a
    · simp [Memory.cellOf, Memory.read_cons, h]
    · simp [Memory.cellOf, Memory.read_cons, h, Ne.symm h]

theorem Memory.read_write_from (m : Memory) (lo a : Nat) (v : Option Byte) (hm : m.risesFrom lo = true) (x : Nat) :
    (m.write a v).read x = if x = a then v else m.read x := by
  induction m generalizing lo with
  | nil => simpa [Memory.write] using Memory.read_cellOf_append a v [] x rfl
  | cons cell rest ih =>
    obtain ⟨c, y⟩ := cell
    have hm' := hm
    rw [Memory.risesFrom_cons] at hm
    rw [Memory.write]
    split
    · rename_i h
      refine Memory.read_cellOf_append a v _ x ?_
      rw [Memory.risesFrom_cons]
      exact ⟨⟨by omega, hm.1.2⟩, hm.2⟩
    · split
      · rename_i h
        subst h
        rw [Memory.read_cellOf_append _ v rest x hm.2, Memory.read_cons]
        by_cases h : x = a
        · simp [h]
        · simp [h, Ne.symm h]
      · rw [Memory.read_cons, Memory.read_cons, ih _ hm.2]
        by_cases h : c = x
        · have : x ≠ a := by omega
          simp [h, this]
        · simp [h]

/-- Read after write, the same offset and every other. -/
theorem Memory.read_write (m : Memory) (a : Nat) (v : Option Byte) (hm : m.wf = true) (x : Nat) :
    (m.write a v).read x = if x = a then v else m.read x :=
  Memory.read_write_from m 0 a v hm x

theorem Memory.write_risesFrom (m : Memory) (lo a : Nat) (v : Option Byte) (hm : m.risesFrom lo = true) (hlo : lo ≤ a)
    (ha : a < 2 ^ 61) : (m.write a v).risesFrom lo = true := by
  induction m generalizing lo with
  | nil =>
    cases v with
    | none => rfl
    | some b => exact (Memory.risesFrom_cons _ _ _ _).mpr ⟨⟨hlo, ha⟩, rfl⟩
  | cons cell rest ih =>
    obtain ⟨c, y⟩ := cell
    have hm' := hm
    rw [Memory.risesFrom_cons] at hm
    rw [Memory.write]
    split
    · cases v with
      | none => exact hm'
      | some b =>
        refine (Memory.risesFrom_cons _ _ _ _).mpr ⟨⟨hlo, ha⟩, (Memory.risesFrom_cons _ _ _ _).mpr ⟨⟨by omega, hm.1.2⟩, hm.2⟩⟩
    · split
      · rename_i h
        subst h
        cases v with
        | none => exact Memory.risesFrom_mono _ _ _ hm.2 (by omega)
        | some b => exact (Memory.risesFrom_cons _ _ _ _).mpr ⟨⟨hlo, ha⟩, hm.2⟩
      · rw [Memory.risesFrom_cons]
        exact ⟨hm.1, ih _ hm.2 (by omega)⟩

/-- A write keeps the canonical form. -/
theorem Memory.write_wf (m : Memory) (a : BitVec 61) (v : Option Byte) (hm : m.wf = true) : (m.write a.toNat v).wf = true :=
  Memory.write_risesFrom m 0 a.toNat v hm (by omega) a.isLt

/-- Two canonical memories that answer alike at every offset are equal. -/
theorem Memory.ext_of_read (m m' : Memory) (lo : Nat) (h : m.risesFrom lo = true) (h' : m'.risesFrom lo = true)
    (e : ∀ a, m.read a = m'.read a) : m = m' := by
  induction m generalizing m' lo with
  | nil =>
    cases m' with
    | nil => rfl
    | cons cell rest =>
      obtain ⟨c, x⟩ := cell
      simpa [Memory.read_cons] using e c
  | cons cell rest ih =>
    obtain ⟨c, x⟩ := cell
    cases m' with
    | nil => simpa [Memory.read_cons] using e c
    | cons cell' rest' =>
      obtain ⟨c', x'⟩ := cell'
      rw [Memory.risesFrom_cons] at h h'
      have hcc : c = c' := by
        by_contra hne
        rcases Nat.lt_or_gt_of_ne hne with hlt | hlt
        · have := e c
          rw [Memory.read_cons, Memory.read_cons, if_pos rfl, if_neg (by omega),
            Memory.read_below rest' (c' + 1) c h'.2 (by omega)] at this
          exact absurd this (by simp)
        · have := e c'
          rw [Memory.read_cons, Memory.read_cons, if_pos rfl, if_neg (by omega),
            Memory.read_below rest (c + 1) c' h.2 (by omega)] at this
          exact absurd this (by simp)
      subst hcc
      have hx : x = x' := by simpa [Memory.read_cons] using e c
      subst hx
      rw [ih rest' (c + 1) h.2 h'.2]
      intro a
      by_cases hac : c = a
      · subst hac
        rw [Memory.read_below rest (c + 1) c h.2 (by omega), Memory.read_below rest' (c + 1) c h'.2 (by omega)]
      · simpa [Memory.read_cons, hac] using e a

/-! ## A row of reads -/

/-- Where the offsets do not wrap, reading in a row is reading each offset, and fails exactly where one is not answered. -/
theorem readFrom_some (m : Memory) (off : BitVec 61) (k n : Nat) (bs : List Byte) (h : readFrom m off k n = some bs)
    (hw : off.toNat + k + n ≤ 2 ^ 61) :
    bs.length = n ∧ ∀ j, j < n → m.read (off.toNat + k + j) = bs[j]? := by
  induction n generalizing k bs with
  | zero =>
    simp only [readFrom, Option.some.injEq] at h
    subst h
    simp
  | succ n ih =>
    have hoff : (off + BitVec.ofNat 61 k).toNat = off.toNat + k := by
      simp only [BitVec.toNat_add, BitVec.toNat_ofNat]
      omega
    rw [readFrom, hoff] at h
    split at h
    · exact absurd h (by simp)
    · rename_i b hb
      split at h
      · exact absurd h (by simp)
      · rename_i rest hrest
        simp only [Option.some.injEq] at h
        subst h
        obtain ⟨hl, hr⟩ := ih (k + 1) rest hrest (by omega)
        refine ⟨by simp [hl], ?_⟩
        intro j hj
        cases j with
        | zero => simpa using hb
        | succ j =>
          have := hr j (by omega)
          rw [show off.toNat + k + (j + 1) = off.toNat + (k + 1) + j by omega, this]
          simp

theorem readFrom_none_iff (m : Memory) (off : BitVec 61) (k n : Nat) (hw : off.toNat + k + n ≤ 2 ^ 61) :
    readFrom m off k n = none ↔ ∃ j, j < n ∧ m.read (off.toNat + k + j) = none := by
  induction n generalizing k with
  | zero => simp [readFrom]
  | succ n ih =>
    have hoff : (off + BitVec.ofNat 61 k).toNat = off.toNat + k := by
      simp only [BitVec.toNat_add, BitVec.toNat_ofNat]
      omega
    have ih := ih (k + 1) (by omega)
    rw [readFrom, hoff]
    constructor
    · intro h
      split at h
      · exact ⟨0, by omega, by assumption⟩
      · split at h
        · rename_i hrest
          obtain ⟨j, hj, hr⟩ := ih.mp hrest
          exact ⟨j + 1, by omega, by rw [← hr]; congr 1; omega⟩
        · exact absurd h (by simp)
    · rintro ⟨j, hj, hr⟩
      split
      · rfl
      · rename_i b hb
        cases j with
        | zero => simp [hb] at hr
        | succ j =>
          rw [ih.mpr ⟨j, by omega, by rw [← hr]; congr 1; omega⟩]

/-- A row of reads depends on the offsets it reads only. -/
theorem readFrom_congr (m m' : Memory) (off : BitVec 61) (k n : Nat) (hw : off.toNat + k + n ≤ 2 ^ 61)
    (h : ∀ j, j < n → m.read (off.toNat + k + j) = m'.read (off.toNat + k + j)) : readFrom m off k n = readFrom m' off k n := by
  induction n generalizing k with
  | zero => rfl
  | succ n ih =>
    have hoff : (off + BitVec.ofNat 61 k).toNat = off.toNat + k := by
      simp only [BitVec.toNat_add, BitVec.toNat_ofNat]
      omega
    have h0 := h 0 (by omega)
    have hrest := ih (k + 1) (by omega) (fun j hj => by
      have := h (j + 1) (by omega)
      rwa [show off.toNat + k + (j + 1) = off.toNat + (k + 1) + j by omega] at this)
    rw [readFrom, readFrom, hoff, hrest]
    rw [Nat.add_zero] at h0
    rw [h0]

end Sys2Proof.Machine
end

