-- ==== Sys2Proof/Laws/PerInstr.lean ====
section
/-!
SUPPORT. Statements made for every instruction, one lemma per constructor. `EncodedInRow`: an instruction's encoded word has the
format of its row of the opcode table and matches the row under its mask (30_encoding.md R82, R84, R92).
-/

namespace Sys2Proof.Laws.EncodedInRow

/-- The encoding of an instruction lies in its opcode-table row. -/
def Statement (i : Instr) : Prop :=
  (encode i).format = i.row.format ∧ (encode i).bits &&& i.row.mask = i.row.matchBits

theorem nop (x : Bool) : Statement (.nop x) := by cases x <;> exact ⟨rfl, rfl⟩

theorem start (x : Bool) : Statement (.start x) := by cases x <;> exact ⟨rfl, rfl⟩

theorem clear (x : Bool) : Statement (.clear x) := by cases x <;> exact ⟨rfl, rfl⟩

theorem rest : Statement .rest := ⟨rfl, rfl⟩

theorem check : Statement .check := ⟨rfl, rfl⟩

theorem init : Statement .init := ⟨rfl, rfl⟩

theorem cnt : Statement .cnt := ⟨rfl, rfl⟩

theorem bzero : Statement .bzero := ⟨rfl, rfl⟩

theorem bcopy : Statement .bcopy := ⟨rfl, rfl⟩

theorem bmark : Statement .bmark := ⟨rfl, rfl⟩

theorem blen : Statement .blen := ⟨rfl, rfl⟩

theorem wload : Statement .wload := ⟨rfl, rfl⟩

theorem wexp : Statement .wexp := ⟨rfl, rfl⟩

theorem seed : Statement .seed := ⟨rfl, rfl⟩

theorem round : Statement .round := ⟨rfl, rfl⟩

theorem accum : Statement .accum := ⟨rfl, rfl⟩

theorem next : Statement .next := ⟨rfl, rfl⟩

theorem final : Statement .final := ⟨rfl, rfl⟩

theorem reserved15 : Statement .reserved15 := ⟨rfl, rfl⟩

theorem rdcmd : Statement .rdcmd := ⟨rfl, rfl⟩

theorem rdstatus : Statement .rdstatus := ⟨rfl, rfl⟩

theorem rdlen : Statement .rdlen := ⟨rfl, rfl⟩

theorem rddigest : Statement .rddigest := ⟨rfl, rfl⟩

theorem wrcmd (v : BitVec 8) : Statement (.wrcmd v) := ⟨rfl, by simp [encode, Coded.bits, Instr.row]⟩

theorem wrstatus (v : BitVec 16) : Statement (.wrstatus v) := ⟨rfl, by simp [encode, Coded.bits, Instr.row]⟩

theorem wrlen (v : BitVec 64) : Statement (.wrlen v) := ⟨rfl, by simp [encode, Coded.bits, Instr.row]⟩

theorem wrdigest (v : BitVec 256) : Statement (.wrdigest v) := ⟨rfl, by simp [encode, Coded.bits, Instr.row]⟩

end Sys2Proof.Laws.EncodedInRow
end

