-- ==== Sys2Proof/Laws/Step.lean ====
section
/-!
SUPPORT. What a turn selects, and the two cases of a step.
-/

namespace Sys2Proof.Machine

@[simp] theorem turnInstr_sequencer (s : State) : turnInstr .sequencer s = some (decodePhase s.PHASE) := rfl

@[simp] theorem turnInstr_message (s : State) (a : BitVec 61) (v : Option Byte) : turnInstr (.message a v) s = none := rfl

@[simp] theorem turnInstr_reset (s : State) : turnInstr .reset s = none := rfl

theorem turnInstr_hostRead (s : State) (r : Nat) (h : r < 4) :
    turnInstr (.hostRead r) s = some (decodeAccess (accessTag false r) 0#256) := by
  simp [turnInstr, turnWord, h, decode, Decoded.toOption]

theorem turnInstr_hostRead_unmapped (s : State) (r : Nat) (h : 4 ≤ r) : turnInstr (.hostRead r) s = none := by
  simp [turnInstr, turnWord, Nat.not_lt.mpr h]

theorem turnInstr_hostWrite (s : State) (r : Nat) (v : BitVec 256) (h : r < 4) :
    turnInstr (.hostWrite r v) s = some (decodeAccess (accessTag true r) v) := by
  simp [turnInstr, turnWord, h, decode, Decoded.toOption]

theorem turnInstr_hostWrite_unmapped (s : State) (r : Nat) (v : BitVec 256) (h : 4 ≤ r) :
    turnInstr (.hostWrite r v) s = none := by
  simp [turnInstr, turnWord, Nat.not_lt.mpr h]

/-- A turn that selects an instruction runs it on the state without that turn. -/
theorem step_of_instr (s : State) (i : Instr) (h : turnInstr s.turn s = some i) : step s = exec i s.popTurn := by
  rw [step, h]

/-- A turn that selects none has its own effect. -/
theorem step_of_effect (s : State) (h : turnInstr s.turn s = none) : step s = .next (turnEffect s.turn s.popTurn) := by
  rw [step, h]

/-- The two cases of a step that answers a next state. -/
theorem step_cases (s t : State) (h : step s = .next t) :
    (∃ i, turnInstr s.turn s = some i ∧ exec i s.popTurn = .next t) ∨
      (turnInstr s.turn s = none ∧ t = turnEffect s.turn s.popTurn) := by
  rw [step] at h
  split at h
  · exact .inl ⟨_, ‹_›, h⟩
  · exact .inr ⟨‹_›, by injection h with h; exact h.symm⟩

/-- Everything a step can be, agent by agent. -/
theorem step_inversion (s t : State) (h : step s = .next t) :
    (s.turn = .sequencer ∧ exec (decodePhase s.PHASE) s.popTurn = .next t) ∨
    (∃ (r : Nat) (v : HostValue) (n : Nat), s.turn = .hostRead r ∧ t = { s.popTurn with lastRead := some v, fresh := n }) ∨
    (∃ (r : Nat) (v : BitVec 256), s.turn = .hostWrite r v ∧ r ≠ 0 ∧ r ≠ 2 ∧ t = s.popTurn) ∨
    (∃ v : BitVec 256, s.turn = .hostWrite 0 v ∧ execWrcmd (v.setWidth 8) s.popTurn = .next t) ∨
    (∃ v : BitVec 256, s.turn = .hostWrite 2 v ∧ execWrlen (v.setWidth 64) s.popTurn = .next t) ∨
    (∃ (a : BitVec 61) (v : Option Byte), s.turn = .message a v ∧ t = s.popTurn.setAnswer a v) ∨
    (s.turn = .reset ∧ t = s.popTurn.resetInput) := by
  cases hturn : s.turn with
  | sequencer =>
    rw [step_of_instr s _ (by rw [hturn]; rfl)] at h
    exact .inl ⟨rfl, h⟩
  | hostRead r =>
    refine .inr (.inl ?_)
    by_cases hr : r < 4
    · rw [step_of_instr s _ (by rw [hturn]; exact turnInstr_hostRead s r hr)] at h
      have hi : decodeAccess (accessTag false r) 0#256 = .rdcmd ∨ decodeAccess (accessTag false r) 0#256 = .rdstatus ∨
          decodeAccess (accessTag false r) 0#256 = .rdlen ∨ decodeAccess (accessTag false r) 0#256 = .rddigest := by
        interval_cases r <;> decide
      rcases hi with e | e | e | e <;> rw [e] at h <;> simp only [exec] at h
      case inr.inr.inr => rcases execRddigest_cases _ _ h with ⟨-, rfl⟩ | ⟨-, rfl⟩ <;> exact ⟨r, _, _, rfl, rfl⟩
      all_goals injection h with h; subst h; exact ⟨r, _, _, rfl, rfl⟩
    · rw [step_of_effect s (by rw [hturn]; exact turnInstr_hostRead_unmapped s r (by omega)), hturn] at h
      injection h with h
      exact ⟨r, _, _, rfl, h.symm⟩
  | hostWrite r v =>
    by_cases hr : r < 4
    · rw [step_of_instr s _ (by rw [hturn]; exact turnInstr_hostWrite s r v hr)] at h
      have hr : r = 0 ∨ r = 1 ∨ r = 2 ∨ r = 3 := by omega
      rcases hr with rfl | rfl | rfl | rfl
      · exact .inr (.inr (.inr (.inl ⟨v, rfl, h⟩)))
      · exact .inr (.inr (.inl ⟨1, v, rfl, by omega, by omega, by injection h with h; exact h.symm⟩))
      · exact .inr (.inr (.inr (.inr (.inl ⟨v, rfl, h⟩))))
      · exact .inr (.inr (.inl ⟨3, v, rfl, by omega, by omega, by injection h with h; exact h.symm⟩))
    · rw [step_of_effect s (by rw [hturn]; exact turnInstr_hostWrite_unmapped s r v (by omega)), hturn] at h
      exact .inr (.inr (.inl ⟨r, v, rfl, by omega, by omega, by injection h with h; exact h.symm⟩))
  | message a v =>
    rw [step_of_effect s (by rw [hturn]; rfl), hturn] at h
    exact .inr (.inr (.inr (.inr (.inr (.inl ⟨a, v, rfl, by injection h with h; exact h.symm⟩)))))
  | reset =>
    rw [step_of_effect s (by rw [hturn]; rfl), hturn] at h
    exact .inr (.inr (.inr (.inr (.inr (.inr ⟨rfl, by injection h with h; exact h.symm⟩)))))

/-- The PHASE codes, one instruction each. -/
theorem decodePhase_cases (p : BitVec 4) :
    (p = 0#4 ∧ decodePhase p = .rest) ∨ (p = 1#4 ∧ decodePhase p = .check) ∨ (p = 2#4 ∧ decodePhase p = .init) ∨
    (p = 3#4 ∧ decodePhase p = .cnt) ∨ (p = 4#4 ∧ decodePhase p = .bzero) ∨ (p = 5#4 ∧ decodePhase p = .bcopy) ∨
    (p = 6#4 ∧ decodePhase p = .bmark) ∨ (p = 7#4 ∧ decodePhase p = .blen) ∨ (p = 8#4 ∧ decodePhase p = .wload) ∨
    (p = 9#4 ∧ decodePhase p = .wexp) ∨ (p = 10#4 ∧ decodePhase p = .seed) ∨ (p = 11#4 ∧ decodePhase p = .round) ∨
    (p = 12#4 ∧ decodePhase p = .accum) ∨ (p = 13#4 ∧ decodePhase p = .next) ∨ (p = 14#4 ∧ decodePhase p = .final) ∨
    (p = 15#4 ∧ decodePhase p = .reserved15) := by
  revert p
  decide

end Sys2Proof.Machine
end

