-- ==== Sys2Proof/Machine/HostScript.lean ====
section
/-!
DEFINITION. The host programs' textual form (30_encoding.md R89) and the pseudo-operations WAIT and HASH (R90) as turns.
-/

namespace Sys2Proof.Machine

/-- A line of a host program (R89). -/
inductive ScriptLine where
  | wrlen (n : BitVec 64)
  | start (p : Bool)
  | clear
  | nop
  /-- `CMD c`: the raw byte, used to write illegal commands. -/
  | cmd (c : BitVec 8)
  | rdstatus
  | rdlen
  | rddigest
  deriving DecidableEq, Repr

/-- The access a line stands for (R89). -/
def ScriptLine.turn : ScriptLine → Turn
  | .wrlen n => .hostWrite 2 (n.setWidth 256)
  | .start p => .hostWrite 0 (if p then 0x11#256 else 0x01#256)
  | .clear => .hostWrite 0 0x02#256
  | .nop => .hostWrite 0 0x00#256
  | .cmd c => .hostWrite 0 (c.setWidth 256)
  | .rdstatus => .hostRead 1
  | .rdlen => .hostRead 2
  | .rddigest => .hostRead 3

/-- `WAIT` (R90) as it runs: `k` polls of STATUS, the sequencer moving once before each. How often a host polls before it sees
BUSY = 0 is the host's (log 28). -/
def waitTurns : Nat → List Turn
  | 0 => []
  | k + 1 => .sequencer :: ScriptLine.rdstatus.turn :: waitTurns k

/-- `HASH n p` (R90) with `k` polls: WRLEN, START, WAIT, RDDIGEST. -/
def hashTurns (n : BitVec 64) (p : Bool) (k : Nat) : List Turn :=
  (ScriptLine.wrlen n).turn :: (ScriptLine.start p).turn :: (waitTurns k ++ [ScriptLine.rddigest.turn])

end Sys2Proof.Machine
end

