-- ==== Sys2Proof/Tests/Slice0.lean ====
section
/-!
SUPPORT. Tests with values from the spec (95_test_vectors.md and the examples of the rules), and for every obligation with
hypotheses a state and operands that meet them all together.
-/

namespace Sys2Proof.Tests

open Sys2Proof.Machine

/-! ## Helpers -/

/-- The outcome is a next state with the property. -/
def gives (o : Host.Outcome State Fault Refusal) (p : State → Bool) : Bool :=
  match o with
  | .next t => p t
  | .fault _ => false
  | .refused _ => false

/-- The reset state with PHASE set. -/
def atPhase (p : BitVec 4) : State := State.reset.goto p

/-- The message "abc" (95 S2). -/
def abcMemory : Memory := [(0, 0x61#8), (1, 0x62#8), (2, 0x63#8)]

/-- In a run of "abc", at a phase before BCOPY or after it. -/
def abcAt (p : BitVec 4) (off : BitVec 61) (ncopy t : BitVec 7) (marked : Bool) : State :=
  { State.reset with
    LEN := 3#64, MSGP := true, N := 1#56, I := 1#56, OFF := off, NCOPY := ncopy, T := t, MARKED := marked,
    PHASE := p, msg := abcMemory }

/-- Eight words of a register file. -/
def words8 (a b c d e f g h : Word) : Vector Word 8 := #v[a, b, c, d, e, f, g, h]

/-- The block of "abc" (95 V2). -/
def abcBlock : Vector Byte 64 :=
  tabulate 64 fun k => if k.val = 0 then 0x61#8 else if k.val = 1 then 0x62#8 else if k.val = 2 then 0x63#8
    else if k.val = 3 then 0x80#8 else if k.val = 63 then 0x18#8 else 0x00#8

/-- V of "abc" after round 63 (95 V4). -/
def abcV : Vector Word 8 :=
  words8 0x506e3058#32 0xd39a2165#32 0x04d24d6c#32 0xb85e2ce9#32 0x5ef50f24#32 0xfb121210#32 0x948d25b6#32 0x961f4894#32

/-- H of "abc" after ACCUM (95 V5). -/
def abcH : Vector Word 8 :=
  words8 0xba7816bf#32 0x8f01cfea#32 0x414140de#32 0x5dae2223#32 0xb00361a3#32 0x96177a9c#32 0xb410ff61#32 0xf20015ad#32

/-! ## WellFormed: the ill-formed term its one check refuses -/

theorem test_wellformed_refuses_reserved15 : Instr.reserved15.wellFormed = false := by decide

theorem test_wellformed_accepts_a_command_and_an_access :
    (Instr.start true).wellFormed = true ∧ (Instr.wrlen 3#64).wellFormed = true ∧ Instr.final.wellFormed = true := by decide

/-! ## Decoding: words written out from 30_encoding.md R82, R84, R92 -/

theorem test_decode_commands :
    decode (.cmd 0b00000000#8) = .ok (.nop false) ∧ decode (.cmd 0b00010000#8) = .ok (.nop true) ∧
    decode (.cmd 0b00000001#8) = .ok (.start false) ∧ decode (.cmd 0b00010001#8) = .ok (.start true) ∧
    decode (.cmd 0b00000010#8) = .ok (.clear false) ∧ decode (.cmd 0b00010010#8) = .ok (.clear true) := by decide

/-- 95 V7, and the bounds of 30_encoding.md R83. -/
theorem test_decode_illegal_commands :
    ∀ c ∈ [0x03#8, 0x0f#8, 0x13#8, 0x1f#8, 0x20#8, 0x21#8, 0x40#8, 0x80#8, 0xff#8],
      decode (.cmd c) = .rejected (.illegalCommand c) := by decide

theorem test_decode_sequencer_and_pad :
    decode (.phase 0b0000#4) = .ok .rest ∧ decode (.phase 0b0001#4) = .ok .check ∧ decode (.phase 0b0011#4) = .ok .cnt ∧
    decode (.phase 0b0100#4) = .ok .bzero ∧ decode (.phase 0b0101#4) = .ok .bcopy ∧ decode (.phase 0b0110#4) = .ok .bmark ∧
    decode (.phase 0b0111#4) = .ok .blen ∧ decode (.phase 0b1101#4) = .ok .next ∧
    decode (.phase 0b1111#4) = .ok .reserved15 := by decide

theorem test_decode_msx_cmp_fin :
    decode (.phase 0b0010#4) = .ok .init ∧ decode (.phase 0b1000#4) = .ok .wload ∧ decode (.phase 0b1001#4) = .ok .wexp ∧
    decode (.phase 0b1010#4) = .ok .seed ∧ decode (.phase 0b1011#4) = .ok .round ∧ decode (.phase 0b1100#4) = .ok .accum ∧
    decode (.phase 0b1110#4) = .ok .final := by decide

theorem test_decode_reads :
    decode (.hacc 0b000#3 0#256) = .ok .rdcmd ∧ decode (.hacc 0b001#3 0#256) = .ok .rdstatus ∧
    decode (.hacc 0b010#3 0#256) = .ok .rdlen ∧ decode (.hacc 0b011#3 0#256) = .ok .rddigest := by decide

theorem test_decode_writes :
    decode (.hacc 0b100#3 0x11#256) = .ok (.wrcmd 0x11#8) ∧ decode (.hacc 0b101#3 0xffff#256) = .ok (.wrstatus 0xffff#16) ∧
    decode (.hacc 0b110#3 1000#256) = .ok (.wrlen 1000#64) ∧
    decode (.hacc 0b111#3 7#256) = .ok (.wrdigest 7#256) := by decide

/-- The opcode table's rows are disjoint within a format (30_encoding.md R82): no byte matches two commands. -/
theorem test_command_rows_disjoint :
    ((Instr.nop false).row.mask, (Instr.nop false).row.matchBits) = (0xEF#8, 0x00#8) ∧
    ((Instr.start false).row.mask, (Instr.start false).row.matchBits) = (0xEF#8, 0x01#8) ∧
    ((Instr.clear false).row.mask, (Instr.clear false).row.matchBits) = (0xEF#8, 0x02#8) := by decide

/-! ## The host's table words (log 13, log 14) -/

theorem test_table_words :
    decodeTableWord 8 0x11 = some (.start true) ∧ decodeTableWord 4 0xB = some .round ∧ decodeTableWord 8 0xB = some .round ∧
    decodeTableWord 3 6 = some (.wrlen 0#64) ∧ decodeTableWord 4 0x10 = none ∧ decodeTableWord 8 0x20 = none := by decide

theorem test_placed_command_runs_next :
    gives (step (State.reset.withFetchWord 8 0x11)) (fun t => t.PHASE == 1#4 && t.MSGP) = true := by decide

theorem test_placed_phase_runs_next :
    gives (step (State.reset.withFetchWord 4 0x2)) (fun t => t.PHASE == 3#4 && t.H[0] == 0x6a09e667#32) = true := by decide

theorem test_placed_access_runs_next :
    gives (step (State.reset.withFetchWord 3 1)) (fun t => t.lastRead == some (.status 0x0000#16)) = true := by decide

/-! ## Word functions (95 V1) -/

theorem test_add32_wraps : add32 0xFFFFFFFF#32 1#32 = 0#32 ∧ add32 0x6a09e667#32 0x506e3058#32 = 0xba7816bf#32 := by decide

theorem test_rotr : rotr 0x12345678#32 1 = 0x091a2b3c#32 ∧ rotr 0x61626380#32 31 = 0xc2c4c700#32 := by decide

theorem test_small_sigmas :
    sig0 0x12345678#32 = 0xe7fce6ee#32 ∧ sig1 0x12345678#32 = 0xa1f78649#32 ∧ sig1 0x00000018#32 = 0x000f0000#32 := by decide

theorem test_big_sigmas : Sig0 0x12345678#32 = 0x66146474#32 ∧ Sig1 0x12345678#32 = 0x3561abda#32 := by decide

theorem test_choose_and_majority :
    Ch 0x510e527f#32 0x9b05688c#32 0x1f83d9ab#32 = 0x1f85c98c#32 ∧
    Maj 0x510e527f#32 0x9b05688c#32 0x1f83d9ab#32 = 0x1b0758af#32 := by decide

theorem test_byte_orders :
    be32 0x61#8 0x62#8 0x63#8 0x80#8 = 0x61626380#32 ∧ byteOf 0xba7816bf#32 0 = 0xba#8 ∧ byteOf 0xba7816bf#32 3 = 0xbf#8 ∧
    be64 24#64 7 = 0x18#8 ∧ be64 0xFFFFFFFFFFFFFFF8#64 0 = 0xff#8 := by decide

/-! ## Host commands (95 V7; 45_host_sequencer.md) -/

theorem test_nop_leaves_done : gives (exec (.nop true) { State.reset with DONE := true }) (fun t => t.status == 0x0002#16) = true := by
  decide

theorem test_start_at_rest : gives (exec (.start true) { State.reset with LEN := 3#64 }) (fun t => t.status == 0x0101#16) = true := by
  decide

theorem test_start_busy_is_dropped : gives (exec (.start true) (atPhase 11#4)) (fun t => t.status == 0x0b09#16) = true := by decide

theorem test_clear_keeps_len :
    gives (exec (.clear false) { atPhase 11#4 with LEN := 3#64, REJ := true, MSGP := true })
      (fun t => t.status == 0x0000#16 && t.LEN == 3#64 && !t.MSGP) = true := by decide

theorem test_illegal_at_rest_clears_done :
    gives (exec (.wrcmd 0x03#8) { State.reset with DONE := true }) (fun t => t.status == 0x0034#16) = true := by decide

theorem test_illegal_busy_is_dropped : gives (exec (.wrcmd 0xff#8) (atPhase 11#4)) (fun t => t.status == 0x0b09#16) = true := by
  decide

/-! ## Host accesses (95 V7) -/

theorem test_wrlen_any_value :
    gives (exec (.wrlen 0xFFFFFFFFFFFFFFFF#64) State.reset) (fun t => t.LEN == 0xFFFFFFFFFFFFFFFF#64 && t.status == 0#16) = true := by
  decide

theorem test_wrlen_busy_is_dropped :
    gives (exec (.wrlen 5#64) { atPhase 11#4 with LEN := 3#64 }) (fun t => t.status == 0x0b09#16 && t.LEN == 3#64) = true := by decide

theorem test_rdcmd_reads_zero : gives (exec .rdcmd (atPhase 11#4)) (fun t => t.lastRead == some (.cmd 0x00#8)) = true := by decide

theorem test_rdstatus_layout :
    gives (exec .rdstatus { State.reset with ERR := true, ERRCODE := 2#2 }) (fun t => t.lastRead == some (.status 0x0024#16)) = true := by
  decide

theorem test_rdlen : gives (exec .rdlen { atPhase 5#4 with LEN := 1000#64 }) (fun t => t.lastRead == some (.len 1000#64)) = true := by decide

/-- D[0] is in bits 255:248 (10_state.md R25). -/
theorem test_rddigest_byte_order :
    gives (exec .rddigest { State.reset with DONE := true, D := tabulate 32 fun k => if k.val = 0 then 0xba#8 else if k.val = 31 then 0xad#8 else 0#8 })
      (fun t => t.lastRead == some (.digest (0xba#8 ++ 0#240 ++ 0xad#8))) = true := by decide +kernel

theorem test_wrstatus_ignored : gives (exec (.wrstatus 0xffff#16) (atPhase 11#4)) (fun t => t.status == 0x0b01#16) = true := by decide

theorem test_wrdigest_ignored : gives (exec (.wrdigest 1#256) State.reset) (fun t => t == State.reset) = true := by decide +kernel

/-! ## The sequencer's own codes -/

theorem test_rest_waits : gives (step State.reset) (fun t => t == State.reset) = true := by decide +kernel

theorem test_reserved15_is_stuck_and_busy : gives (step (atPhase 15#4)) (fun t => t.status == 0x0f01#16) = true := by decide

theorem test_check_bounds :
    gives (exec .check { atPhase 1#4 with LEN := 0x1FFFFFFFFFFFFFFF#64, MSGP := true }) (fun t => t.status == 0x0201#16) = true ∧
    gives (exec .check { atPhase 1#4 with LEN := 0x2000000000000000#64, MSGP := true }) (fun t => t.status == 0x0014#16) = true ∧
    gives (exec .check { atPhase 1#4 with LEN := 0x2000000000000000#64 }) (fun t => t.status == 0x0014#16) = true := by decide

theorem test_check_buffer :
    gives (exec .check { atPhase 1#4 with LEN := 3#64 }) (fun t => t.status == 0x0024#16) = true ∧
    gives (exec .check (atPhase 1#4)) (fun t => t.status == 0x0201#16) = true := by decide

/-! ## PAD (95 V2, V6) -/

theorem test_cnt_small_lengths :
    [(0#64, 1#56), (55#64, 1#56), (56#64, 2#56), (63#64, 2#56), (64#64, 2#56), (119#64, 2#56), (120#64, 3#56), (1000#64, 16#56)].all
      (fun q => gives (exec .cnt { atPhase 3#4 with LEN := q.1 }) (fun t => t.N == q.2 && t.I == 1#56)) = true := by
  decide +kernel

theorem test_cnt_largest_lengths :
    gives (exec .cnt { atPhase 3#4 with LEN := 2305843009213693943#64 }) (fun t => t.N == 36028797018963968#56) = true ∧
    gives (exec .cnt { atPhase 3#4 with LEN := 2305843009213693951#64 }) (fun t => t.N == 36028797018963969#56) = true := by decide

theorem test_bzero : gives (exec .bzero { atPhase 4#4 with B := abcBlock }) (fun t => t.B[0] == 0#8 && t.B[63] == 0#8) = true := by
  decide +kernel

theorem test_bcopy_abc :
    gives (exec .bcopy (abcAt 5#4 0#61 0#7 0#7 false))
      (fun t => t.B[0] == 0x61#8 && t.B[2] == 0x63#8 && t.B[3] == 0#8 && t.OFF == 3#61 && t.NCOPY == 3#7) = true := by decide

theorem test_bcopy_waits :
    gives (exec .bcopy { abcAt 5#4 0#61 0#7 0#7 false with LEN := 4#64 }) (fun t => t.PHASE == 5#4 && t.OFF == 0#61) = true := by decide

theorem test_bmark_abc :
    gives (exec .bmark (abcAt 6#4 3#61 3#7 0#7 false)) (fun t => t.B[3] == 0x80#8 && t.B[2] == 0#8 && t.MARKED) = true := by decide

theorem test_bmark_full_block :
    gives (exec .bmark { abcAt 6#4 3#61 64#7 0#7 false with B := abcBlock }) (fun t => t.B == abcBlock && !t.MARKED && t.PHASE == 7#4) = true := by
  decide +kernel

theorem test_blen_longest :
    gives (exec .blen { abcAt 7#4 3#61 3#7 0#7 true with LEN := 0x1FFFFFFFFFFFFFFF#64 })
      (fun t => t.B[55] == 0#8 && t.B[56] == 0xff#8 && t.B[63] == 0xf8#8) = true := by decide

theorem test_blen_not_final :
    gives (exec .blen { abcAt 7#4 3#61 3#7 0#7 true with N := 2#56 }) (fun t => t.B[63] == 0#8 && t.PHASE == 8#4) = true := by decide

theorem test_next_advances :
    gives (exec .next { abcAt 13#4 3#61 3#7 64#7 true with N := 2#56 }) (fun t => t.I == 2#56 && t.PHASE == 4#4) = true := by decide

theorem test_next_ends :
    gives (exec .next (abcAt 13#4 3#61 3#7 64#7 true)) (fun t => t.I == 1#56 && t.PHASE == 14#4) = true := by decide

/-! ## MSX (95 V3) -/

theorem test_wload_abc :
    gives (exec .wload { atPhase 8#4 with B := abcBlock, W := tabulate 64 fun _ => 7#32 })
      (fun t => t.W[0] == 0x61626380#32 && t.W[1] == 0#32 && t.W[15] == 0x00000018#32 && t.W[16] == 7#32) = true := by decide +kernel

theorem test_wexp_abc :
    gives (exec .wexp { atPhase 9#4 with W := tabulate 64 fun k => if k.val = 0 then 0x61626380#32 else if k.val = 15 then 0x18#32 else 0#32 })
      (fun t => t.W[16] == 0x61626380#32 && t.W[17] == 0x000f0000#32 && t.W[19] == 0x600003c6#32) = true := by
  decide +kernel

/-! ## CMP (95 V4, V5) -/

theorem test_init : gives (exec .init (atPhase 2#4)) (fun t => t.H[0] == 0x6a09e667#32 && t.H[7] == 0x5be0cd19#32) = true := by decide

theorem test_seed :
    gives (exec .seed { atPhase 10#4 with H := abcH, T := 64#7 }) (fun t => t.V == abcH && t.T == 0#7 && t.PHASE == 11#4) = true := by decide

theorem test_round_0_of_abc :
    gives (exec .round { atPhase 11#4 with V := IV, W := tabulate 64 fun k => if k.val = 0 then 0x61626380#32 else 0#32 })
      (fun t => t.V == words8 0x5d6aebcd#32 0x6a09e667#32 0xbb67ae85#32 0x3c6ef372#32 0xfa2a4622#32 0x510e527f#32 0x9b05688c#32 0x1f83d9ab#32 &&
        t.T == 1#7 && t.PHASE == 11#4) = true := by decide +kernel

/-- The last round uses K[63] and W[63] and goes on to ACCUM. -/
theorem test_round_63_of_abc :
    gives (exec .round { atPhase 11#4 with
        V := words8 0xd39a2165#32 0x04d24d6c#32 0xb85e2ce9#32 0xb6ae8fff#32 0xfb121210#32 0x948d25b6#32 0x961f4894#32 0xb21bad3d#32
        W := tabulate 64 fun k => if k.val = 63 then 0x12b1edeb#32 else 0#32, T := 63#7 })
      (fun t => t.V == abcV && t.T == 64#7 && t.PHASE == 12#4) = true := by decide +kernel

theorem test_accum_abc : gives (exec .accum { atPhase 12#4 with H := IV, V := abcV, T := 64#7 }) (fun t => t.H == abcH) = true := by
  decide +kernel

/-! ## FIN (95 V5) -/

theorem test_final_abc :
    gives (exec .final { atPhase 14#4 with H := abcH })
      (fun t => t.D[0] == 0xba#8 && t.D[1] == 0x78#8 && t.D[4] == 0x8f#8 && t.D[31] == 0xad#8 && t.status == 0x0002#16) = true := by
  decide +kernel

/-! ## Around the CORE -/

theorem test_reset_input_clears_len :
    gives (step { atPhase 11#4 with LEN := 3#64, turns := [.reset] }) (fun t => t.status == 0#16 && t.LEN == 0#64) = true := by decide

theorem test_unmapped_write_is_ignored :
    gives (step { State.reset with turns := [.hostWrite 4 0x11#256] }) (fun t => t == State.reset) = true := by decide +kernel

theorem test_owner_writes_the_message :
    gives (step { State.reset with turns := [.message 2#61 (some 0x63#8)] }) (fun t => t.msg == [(2, 0x63#8)]) = true := by decide

theorem test_status_outputs :
    (atPhase 11#4).busyOut = true ∧ { State.reset with DONE := true }.doneOut = true ∧
    { State.reset with ERR := true, ERRCODE := 1#2 }.errOut = true := by decide

/-- The lines of P2 (95): WRLEN 3, START 1, one poll, RDDIGEST. -/
theorem test_hash_script :
    hashTurns 3#64 true 1 = [.hostWrite 2 3#256, .hostWrite 0 0x11#256, .sequencer, .hostRead 1, .hostRead 3] := by decide

/-- 95 V2, block 2 of 56 bytes and block 2 of 64 bytes. -/
theorem test_whole_hash_blocks :
    blockByte (List.replicate 56 0x61#8) 1 56 = 0x80#8 ∧ blockByte (List.replicate 56 0x61#8) 2 0 = 0x00#8 ∧
    blockByte (List.replicate 56 0x61#8) 2 62 = 0x01#8 ∧ blockByte (List.replicate 64 0x61#8) 2 0 = 0x80#8 := by decide

/-! ## Witnesses: hypotheses of the obligations, met together

Each is named after its obligation. Where an obligation has several clauses, the witness meets each, at the bounds of its
range. -/

theorem test_witness_EveryAcceptedWordEncodesBack :
    decode (.cmd 0x11#8) = .ok (.start true) ∧ decode (.phase 14#4) = .ok .final ∧
    decode (.hacc 4#3 0x1ff#256) = .ok (.wrcmd 0xff#8) ∧ decode (.hacc 5#3 0x1ffff#256) = .ok (.wrstatus 0xffff#16) ∧
    decode (.hacc 6#3 0x1ffffffffffffffff#256) = .ok (.wrlen 0xffffffffffffffff#64) ∧
    decode (.hacc 7#3 5#256) = .ok (.wrdigest 5#256) := by decide

theorem test_witness_StepRunsTheSelectedInstruction :
    State.reset.turns = [] ∧ { State.reset with turns := [.sequencer] }.turns = .sequencer :: [] ∧
    { State.reset with turns := [.hostRead 3] }.turns = .hostRead 3 :: [] ∧ 3 < 4 ∧
    { State.reset with turns := [.hostWrite 0 0x111#256] }.turns = .hostWrite 0 0x111#256 :: [] ∧
    decode (.cmd ((0x111#256).setWidth 8)) = .ok (.start true) := by decide

theorem test_witness_ResetInputFromAnyState :
    { atPhase 15#4 with turns := [.reset] }.turns = .reset :: [] := by decide

theorem test_witness_StartAcceptedOnlyAtRest :
    State.reset.PHASE = 0#4 ∧ (atPhase 1#4).PHASE ≠ 0#4 ∧ (atPhase 15#4).PHASE ≠ 0#4 := by decide

theorem test_witness_IllegalCommandByte :
    ((0x20#8).extractLsb' 5 3 ≠ 0#3 ∨ 3 ≤ ((0x20#8).extractLsb' 0 4).toNat) ∧
    ((0x03#8).extractLsb' 5 3 ≠ 0#3 ∨ 3 ≤ ((0x03#8).extractLsb' 0 4).toNat) ∧
    State.reset.PHASE = 0#4 ∧ (atPhase 14#4).PHASE ≠ 0#4 := by decide

theorem test_witness_WrcmdPerformsTheSelectedCommand :
    decode (.cmd 0x12#8) = .ok (.clear true) ∧ decode (.cmd 0x00#8) = .ok (.nop false) := by decide

theorem test_witness_WrlenStoresAtRest : State.reset.PHASE = 0#4 ∧ (atPhase 1#4).PHASE ≠ 0#4 := by decide

theorem test_witness_RddigestReturnsTheDigestBytes : { State.reset with DONE := true }.DONE = true := by decide

theorem test_witness_RddigestWithoutDoneReturnsAFreeValue : State.reset.DONE = false := by decide

theorem test_witness_RemainingAccessesChangeNothing :
    { State.reset with turns := [.hostWrite 4 1#256] }.turns = .hostWrite 4 1#256 :: [] ∧
    { State.reset with turns := [.hostRead 4] }.turns = .hostRead 4 :: [] ∧ 4 ≤ 4 := by decide

theorem test_witness_SequencerWithNoStepChangesNothing :
    (State.reset.turns = [] ∧ State.reset.PHASE = 0#4) ∧ ((atPhase 15#4).turns = [] ∧ (atPhase 15#4).PHASE = 15#4) ∧
    ({ atPhase 15#4 with turns := [.hostWrite 0 0x02#256] }.PHASE = 15#4 ∧
      { atPhase 15#4 with turns := [.hostWrite 0 0x02#256] }.turns = .hostWrite 0 0x02#256 :: []) ∧
    ({ atPhase 15#4 with turns := [.reset] }.PHASE = 15#4 ∧
      { atPhase 15#4 with turns := [.reset] }.turns = .reset :: []) := by decide

theorem test_witness_CheckTestsThePreconditions :
    2 ^ 61 ≤ { State.reset with LEN := 0x2000000000000000#64 }.LEN.toNat ∧
    ({ State.reset with LEN := 0x1FFFFFFFFFFFFFFF#64 }.LEN.toNat < 2 ^ 61 ∧
      { State.reset with LEN := 0x1FFFFFFFFFFFFFFF#64 }.LEN ≠ 0#64 ∧
      { State.reset with LEN := 0x1FFFFFFFFFFFFFFF#64 }.MSGP = false) ∧
    (State.reset.LEN.toNat < 2 ^ 61 ∧ State.reset.LEN = 0#64) ∧
    ({ State.reset with LEN := 0x1FFFFFFFFFFFFFFF#64, MSGP := true }.LEN.toNat < 2 ^ 61 ∧
      { State.reset with LEN := 0x1FFFFFFFFFFFFFFF#64, MSGP := true }.MSGP = true) := by decide

theorem test_witness_CntCountsTheBlocks :
    State.reset.LEN.toNat < 2 ^ 61 ∧ { State.reset with LEN := 0x1FFFFFFFFFFFFFFF#64 }.LEN.toNat < 2 ^ 61 := by decide

theorem test_witness_BlockCountIsTheCeiling : { State.reset with LEN := 0x1FFFFFFFFFFFFFFF#64 }.LEN.toNat < 2 ^ 61 := by decide

theorem test_witness_BcopyCopiesTheNextBytes :
    (abcAt 5#4 0#61 0#7 0#7 false).LEN.toNat < 2 ^ 61 ∧
    (abcAt 5#4 0#61 0#7 0#7 false).OFF.toNat ≤ (abcAt 5#4 0#61 0#7 0#7 false).LEN.toNat ∧
    (∀ k : Nat, k < min ((abcAt 5#4 0#61 0#7 0#7 false).LEN.toNat - (abcAt 5#4 0#61 0#7 0#7 false).OFF.toNat) 64 →
      ∃ b : Byte, (abcAt 5#4 0#61 0#7 0#7 false).msg.read ((abcAt 5#4 0#61 0#7 0#7 false).OFF.toNat + k) = some b) := by
  refine ⟨by decide, by decide, fun k hk => ?_⟩
  have h : k < 3 := hk
  interval_cases k
  · exact ⟨0x61#8, rfl⟩
  · exact ⟨0x62#8, rfl⟩
  · exact ⟨0x63#8, rfl⟩

theorem test_witness_BcopyWaitsForAnUnansweredRead :
    { State.reset with LEN := 1#64, PHASE := 5#4 }.LEN.toNat < 2 ^ 61 ∧
    { State.reset with LEN := 1#64, PHASE := 5#4 }.OFF.toNat ≤ { State.reset with LEN := 1#64, PHASE := 5#4 }.LEN.toNat ∧
    { State.reset with LEN := 1#64, PHASE := 5#4 }.PHASE = 5#4 ∧
    (∃ k : Nat, k < min ({ State.reset with LEN := 1#64, PHASE := 5#4 }.LEN.toNat -
        { State.reset with LEN := 1#64, PHASE := 5#4 }.OFF.toNat) 64 ∧
      { State.reset with LEN := 1#64, PHASE := 5#4 }.msg.read
        ({ State.reset with LEN := 1#64, PHASE := 5#4 }.OFF.toNat + k) = none) ∧
    { State.reset with LEN := 1#64, PHASE := 5#4 }.turns = [] ∧
    { State.reset with LEN := 1#64, PHASE := 5#4, turns := [.hostWrite 0 0x02#256] }.turns = .hostWrite 0 0x02#256 :: [] ∧
    { State.reset with LEN := 1#64, PHASE := 5#4, turns := [.reset] }.turns = .reset :: [] :=
  ⟨by decide, by decide, rfl, ⟨0, by decide, rfl⟩, rfl, rfl, rfl⟩

theorem test_witness_BmarkWritesTheMarkerOnce :
    ({ State.reset with NCOPY := 63#7 }.MARKED = false ∧ { State.reset with NCOPY := 63#7 }.NCOPY.toNat < 64) ∧
    { State.reset with MARKED := true }.MARKED = true ∧ 64 ≤ { State.reset with NCOPY := 64#7 }.NCOPY.toNat := by decide

theorem test_witness_BlenWritesTheLengthInTheFinalBlock :
    ({ State.reset with LEN := 0x1FFFFFFFFFFFFFFF#64 }.LEN.toNat < 2 ^ 61 ∧ State.reset.I = State.reset.N) ∧
    { State.reset with N := 2#56, I := 1#56 }.I ≠ { State.reset with N := 2#56, I := 1#56 }.N := by decide

theorem test_witness_NextAdvancesTheBlockIndex :
    { State.reset with N := 2#56, I := 2#56 }.I = { State.reset with N := 2#56, I := 2#56 }.N ∧
    { State.reset with N := 2#56, I := 1#56 }.I ≠ { State.reset with N := 2#56, I := 1#56 }.N := by decide

theorem test_witness_RoundTransformsTheWorkingVariables :
    (State.reset.T.toNat < 64 ∧ State.reset.T.toNat ≠ 63) ∧
    ({ State.reset with T := 63#7 }.T.toNat < 64 ∧ { State.reset with T := 63#7 }.T.toNat = 63) := by decide

theorem test_witness_RoundBeyondTheTablesStillRuns :
    64 ≤ { State.reset with T := 64#7 }.T.toNat ∧ 64 ≤ { State.reset with T := 127#7 }.T.toNat := by decide

theorem test_witness_RotrMovesEachBit : (1 ≤ 1 ∧ 1 ≤ 31) ∧ (1 ≤ 31 ∧ 31 ≤ 31) := by decide

theorem test_witness_MessageOwnerChangesOneOffset :
    { State.reset with msg := abcMemory, turns := [.message 1#61 none] }.msg.wf = true ∧
    { State.reset with msg := abcMemory, turns := [.message 1#61 none] }.turns = .message 1#61 none :: [] := by decide

theorem test_witness_CoreNeverWritesMemory :
    (∃ t, exec .bzero (atPhase 4#4) = .next t) ∧
    (∃ t, step { State.reset with turns := [.message 0#61 (some 1#8)] } = .next t ∧
      t.msg ≠ { State.reset with turns := [.message 0#61 (some 1#8)] }.msg) :=
  ⟨⟨_, rfl⟩, ⟨_, rfl, by decide⟩⟩

/-- The invariant of a busy state before BCOPY, with the message of "abc" in place. -/
theorem test_witness_Inv_before_bcopy : Inv (abcAt 5#4 0#61 0#7 0#7 false) := by constructor <;> decide

/-- The invariant of a busy state at the last ROUND. -/
theorem test_witness_Inv_at_round_63 : Inv (abcAt 11#4 3#61 3#7 63#7 true) := by constructor <;> decide

/-- The invariant of a state at rest with an error. -/
theorem test_witness_Inv_at_error : Inv { State.reset with ERR := true, ERRCODE := 3#2 } := by constructor <;> decide

/-- The memory differs at offset 3 = LEN only. -/
theorem test_witness_NoReadAtOrBeyondLen :
    Inv (abcAt 5#4 0#61 0#7 0#7 false) ∧ (abcAt 5#4 0#61 0#7 0#7 false).turn = .sequencer ∧
    (∀ a : Nat, a < (abcAt 5#4 0#61 0#7 0#7 false).LEN.toNat →
      Memory.read (abcMemory ++ [(3, 0xff#8)]) a = (abcAt 5#4 0#61 0#7 0#7 false).msg.read a) := by
  refine ⟨test_witness_Inv_before_bcopy, rfl, fun a ha => ?_⟩
  have h : a < 3 := ha
  interval_cases a <;> rfl

theorem test_witness_OperationsWriteOnlyTheirRegisters :
    (Instr.check = .check → (atPhase 1#4).DONE = false) ∧ (Instr.final = .check → (atPhase 14#4).DONE = false) := by decide

theorem test_witness_EveryStepKeepsTheInvariant :
    Inv (abcAt 11#4 3#61 3#7 63#7 true) ∧ ∃ t, step (abcAt 11#4 3#61 3#7 63#7 true) = .next t :=
  ⟨test_witness_Inv_at_round_63, _, rfl⟩

/-- In a run of a message of four bytes, of which the platform answers three: BCOPY waits. -/
theorem test_witness_PhaseFollowsTheTransitionTable_waiting :
    Inv { abcAt 5#4 0#61 0#7 0#7 false with LEN := 4#64 } ∧
    { abcAt 5#4 0#61 0#7 0#7 false with LEN := 4#64 }.turn = .sequencer ∧
    { abcAt 5#4 0#61 0#7 0#7 false with LEN := 4#64 }.PHASE = 5#4 ∧
    (∃ k : Nat, k < min (4 - 0) 64 ∧ { abcAt 5#4 0#61 0#7 0#7 false with LEN := 4#64 }.msg.read (0 + k) = none) ∧
    step { abcAt 5#4 0#61 0#7 0#7 false with LEN := 4#64 } =
      .next { abcAt 5#4 0#61 0#7 0#7 false with LEN := 4#64 }.popTurn :=
  ⟨by constructor <;> decide, rfl, rfl, ⟨3, by decide, rfl⟩, rfl⟩

/-- A micro-operation, an accepted START, the sequencer's turn before BCOPY, and an illegal byte at REST. -/
theorem test_witness_PhaseFollowsTheTransitionTable :
    (Inv (abcAt 11#4 3#61 3#7 63#7 true) ∧
      ∃ t, step (abcAt 11#4 3#61 3#7 63#7 true) = .next t ∧ t.PHASE ≠ (abcAt 11#4 3#61 3#7 63#7 true).PHASE) ∧
    (Inv { State.reset with turns := [.hostWrite 0 0x11#256] } ∧
      ∃ t, step { State.reset with turns := [.hostWrite 0 0x11#256] } = .next t ∧ t.PHASE ≠ 0#4) ∧
    (Inv (abcAt 5#4 0#61 0#7 0#7 false) ∧ (abcAt 5#4 0#61 0#7 0#7 false).turn = .sequencer ∧
      (abcAt 5#4 0#61 0#7 0#7 false).PHASE ≠ 0#4) ∧
    ({ State.reset with turns := [.hostWrite 0 0x03#256] }.PHASE = 0#4 ∧
      WritesCommand { State.reset with turns := [.hostWrite 0 0x03#256] }.turn 0x03#8 ∧
      decodeCommand 0x03#8 = .illegal 0x03#8) :=
  ⟨⟨test_witness_Inv_at_round_63, _, rfl, by decide⟩, ⟨by constructor <;> decide, _, rfl, by decide⟩,
    ⟨test_witness_Inv_before_bcopy, by decide, by decide⟩, rfl, ⟨0x03#256, rfl, by decide⟩, by decide⟩

theorem test_witness_StatusCombinationsShown :
    Inv (abcAt 11#4 3#61 3#7 63#7 true) ∧ Inv { State.reset with ERR := true, ERRCODE := 3#2 } :=
  ⟨test_witness_Inv_at_round_63, test_witness_Inv_at_error⟩

/-- For each clause a step that meets its hypotheses. DONE set by FINAL, and cleared by an accepted START, CLEAR, an illegal
byte at REST and reset from a state that meets the invariant. -/
theorem test_witness_WhoSetsAndClearsTheFlags_DONE :
    (∃ t, step (atPhase 14#4) = .next t ∧ (atPhase 14#4).DONE = false ∧ t.DONE = true) ∧
    (∀ u ∈ [Turn.hostWrite 0 0x11#256, .hostWrite 0 0x02#256, .hostWrite 0 0x03#256, .reset],
      Inv { State.reset with DONE := true, turns := [u] } ∧
      ∃ t, step { State.reset with DONE := true, turns := [u] } = .next t ∧ t.DONE = false) := by
  refine ⟨⟨_, rfl, rfl, rfl⟩, fun u hu => ?_⟩
  simp only [List.mem_cons, List.not_mem_nil, or_false] at hu
  rcases hu with rfl | rfl | rfl | rfl <;> exact ⟨by constructor <;> decide, _, rfl, rfl⟩

/-- ERR and ERRCODE set by CHECK and by an illegal byte, ERRCODE overwritten by an illegal byte, and both cleared by an accepted
START, CLEAR and reset. -/
theorem test_witness_WhoSetsAndClearsTheFlags_ERR :
    (∃ t, step { atPhase 1#4 with LEN := 1#64 } = .next t ∧ t.ERR = true ∧ t.ERRCODE = 2#2) ∧
    (∃ t, step { State.reset with turns := [.hostWrite 0 0x03#256] } = .next t ∧ t.ERR = true ∧ t.ERRCODE = 3#2) ∧
    (∃ t, step { State.reset with ERR := true, ERRCODE := 1#2, turns := [.hostWrite 0 0x03#256] } = .next t ∧ t.ERRCODE = 3#2) ∧
    (∀ u ∈ [Turn.hostWrite 0 0x11#256, .hostWrite 0 0x02#256, .reset],
      ∃ t, step { State.reset with ERR := true, ERRCODE := 1#2, turns := [u] } = .next t ∧ t.ERR = false ∧ t.ERRCODE = 0#2) := by
  refine ⟨⟨_, rfl, rfl, rfl⟩, ⟨_, rfl, rfl, rfl⟩, ⟨_, rfl, rfl⟩, fun u hu => ?_⟩
  simp only [List.mem_cons, List.not_mem_nil, or_false] at hu
  rcases hu with rfl | rfl | rfl <;> exact ⟨_, rfl, rfl, rfl⟩

/-- REJ set by a START, an illegal byte and a WRLEN while busy, and cleared by CLEAR and reset. -/
theorem test_witness_WhoSetsAndClearsTheFlags_REJ :
    (∀ u ∈ [Turn.hostWrite 0 0x01#256, .hostWrite 0 0xff#256, .hostWrite 2 5#256],
      ∃ t, step { atPhase 11#4 with turns := [u] } = .next t ∧ (atPhase 11#4).REJ = false ∧ t.REJ = true) ∧
    (∀ u ∈ [Turn.hostWrite 0 0x02#256, .reset],
      ∃ t, step { atPhase 11#4 with REJ := true, turns := [u] } = .next t ∧ t.REJ = false) := by
  refine ⟨fun u hu => ?_, fun u hu => ?_⟩ <;> simp only [List.mem_cons, List.not_mem_nil, or_false] at hu
  · rcases hu with rfl | rfl | rfl <;> exact ⟨_, rfl, rfl, rfl⟩
  · rcases hu with rfl | rfl <;> exact ⟨_, rfl, rfl⟩

theorem test_witness_OnlyTheHostWritesLen :
    (∃ t, step { State.reset with turns := [.hostWrite 2 5#256] } = .next t ∧ t.LEN ≠ State.reset.LEN) ∧
    (∃ t, step { State.reset with LEN := 5#64, turns := [.reset] } = .next t ∧ t.LEN ≠ 5#64) :=
  ⟨⟨_, rfl, by decide⟩, ⟨_, rfl, by decide⟩⟩

theorem test_witness_HashStateChangesOnlyAtInitAndAccum :
    Inv { abcAt 12#4 3#61 3#7 64#7 true with V := abcV } ∧
    ∃ t, step { abcAt 12#4 3#61 3#7 64#7 true with V := abcV } = .next t ∧
      t.H ≠ { abcAt 12#4 3#61 3#7 64#7 true with V := abcV }.H :=
  ⟨by constructor <;> decide, _, rfl, by decide +kernel⟩

theorem test_witness_BusyHostAccessDisturbsNothing :
    { atPhase 11#4 with turns := [.hostRead 3] }.PHASE ≠ 0#4 ∧
    { atPhase 11#4 with turns := [.hostRead 3] }.turn = .hostRead 3 ∧
    { atPhase 11#4 with turns := [.hostWrite 0 0x11#256] }.turn = .hostWrite 0 0x11#256 ∧
    ¬(0 = 0 ∧ ∃ x, decodeCommand ((0x11#256).setWidth 8) = .clear x) :=
  ⟨by decide, rfl, rfl, by decide⟩

/-- The message of "abc" is answered. -/
theorem test_abc_answered : Answers abcMemory [0x61#8, 0x62#8, 0x63#8] := by
  intro k b h
  have hk : k < 3 := by
    by_contra hc
    rw [List.getElem?_eq_none (by simpa using hc)] at h
    cases h
  interval_cases k <;> simpa [abcMemory, Memory.read] using h

theorem test_witness_FourPadStepsBuildTheBlock :
    Inv (abcAt 4#4 0#61 0#7 0#7 false) ∧ (abcAt 4#4 0#61 0#7 0#7 false).turns = [] ∧ (abcAt 4#4 0#61 0#7 0#7 false).PHASE = 4#4 ∧
    (abcAt 4#4 0#61 0#7 0#7 false).LEN.toNat = [0x61#8, 0x62#8, 0x63#8].length ∧
    Answers (abcAt 4#4 0#61 0#7 0#7 false).msg [0x61#8, 0x62#8, 0x63#8] :=
  ⟨by constructor <;> decide, rfl, rfl, rfl, test_abc_answered⟩

theorem test_witness_OneBlockIsCompressed : (atPhase 8#4).turns = [] ∧ (atPhase 8#4).PHASE = 8#4 := by decide

theorem test_witness_BlocksTogetherAreThePaddedMessage : [0x61#8, 0x62#8, 0x63#8].length < 2 ^ 61 := by decide

/-- P2 of 95, from its START on. -/
theorem test_witness_RunComputesTheHash :
    { State.reset with LEN := 3#64, msg := abcMemory, turns := [.hostWrite 0 0x11#256] }.PHASE = 0#4 ∧
    { State.reset with LEN := 3#64, msg := abcMemory, turns := [.hostWrite 0 0x11#256] }.turns = [.hostWrite 0 0x11#256] ∧
    decodeCommand ((0x11#256).setWidth 8) = .start true ∧
    { State.reset with LEN := 3#64, msg := abcMemory, turns := [.hostWrite 0 0x11#256] }.LEN.toNat =
      [0x61#8, 0x62#8, 0x63#8].length ∧
    [0x61#8, 0x62#8, 0x63#8].length < 2 ^ 61 ∧ ([0x61#8, 0x62#8, 0x63#8] = [] ∨ true = true) ∧
    Answers { State.reset with LEN := 3#64, msg := abcMemory, turns := [.hostWrite 0 0x11#256] }.msg [0x61#8, 0x62#8, 0x63#8] :=
  ⟨rfl, rfl, by decide, rfl, by decide, .inr rfl, test_abc_answered⟩

theorem test_witness_EveryBusyRunReachesRest :
    Inv (abcAt 5#4 0#61 0#7 0#7 false) ∧ (abcAt 5#4 0#61 0#7 0#7 false).turns = [] ∧
    (abcAt 5#4 0#61 0#7 0#7 false).PHASE ≠ 0#4 ∧
    ((abcAt 5#4 0#61 0#7 0#7 false).LEN.toNat < 2 ^ 61 →
      ((abcAt 5#4 0#61 0#7 0#7 false).LEN = 0#64 ∨ (abcAt 5#4 0#61 0#7 0#7 false).MSGP = true) →
      ∀ a : Nat, a < (abcAt 5#4 0#61 0#7 0#7 false).LEN.toNat →
        ∃ b : Byte, (abcAt 5#4 0#61 0#7 0#7 false).msg.read a = some b) := by
  refine ⟨test_witness_Inv_before_bcopy, rfl, by decide, fun _ _ a ha => ?_⟩
  have h : a < 3 := ha
  interval_cases a
  · exact ⟨0x61#8, rfl⟩
  · exact ⟨0x62#8, rfl⟩
  · exact ⟨0x63#8, rfl⟩

/-- Two states at CHECK that differ in the hash state, the digest and a byte beyond LEN. -/
theorem test_witness_DigestDependsOnlyOnTheInputs :
    let s := abcAt 1#4 0#61 0#7 0#7 false
    let u := { abcAt 1#4 9#61 9#7 9#7 true with H := abcH, msg := abcMemory ++ [(3, 0xff#8)] }
    s.PHASE = 1#4 ∧ u.PHASE = 1#4 ∧ s.turns = [] ∧ u.turns = [] ∧ s.DONE = false ∧ u.DONE = false ∧ s.ERR = false ∧
      u.ERR = false ∧ s.ERRCODE = u.ERRCODE ∧ s.LEN = u.LEN ∧ s.MSGP = u.MSGP ∧
      (∀ a : Nat, a < s.LEN.toNat → s.msg.read a = u.msg.read a) := by
  refine ⟨rfl, rfl, rfl, rfl, rfl, rfl, rfl, rfl, rfl, rfl, rfl, fun a ha => ?_⟩
  have h : a < 3 := ha
  interval_cases a <;> rfl

end Sys2Proof.Tests
end

/-! # Proofs about the state (10_state.md) -/

namespace Sys2Proof.Machine

/-! ## Which registers an operation writes -/

theorem Reg.forall_iff {P : Reg → Prop} :
    (∀ r, P r) ↔ P .H ∧ P .V ∧ P .W ∧ P .B ∧ P .D ∧ P .LEN ∧ P .N ∧ P .I ∧ P .OFF ∧ P .T ∧ P .NCOPY ∧ P .MARKED ∧ P .MSGP ∧
      P .PHASE ∧ P .DONE ∧ P .ERR ∧ P .ERRCODE ∧ P .REJ :=
  ⟨fun h => by simp only [h, and_self], fun h r => by cases r <;> simp only [h]⟩

/-- Every register outside `ws` is the same in both states. -/
def WritesOnly (ws : List Reg) (s t : State) : Prop := ∀ r : Reg, r ∉ ws → r.same s t

theorem writesOnly_iff (ws : List Reg) (s t : State) :
    WritesOnly ws s t ↔ (.H ∉ ws → t.H = s.H) ∧ (.V ∉ ws → t.V = s.V) ∧ (.W ∉ ws → t.W = s.W) ∧ (.B ∉ ws → t.B = s.B) ∧
      (.D ∉ ws → t.D = s.D) ∧ (.LEN ∉ ws → t.LEN = s.LEN) ∧ (.N ∉ ws → t.N = s.N) ∧ (.I ∉ ws → t.I = s.I) ∧
      (.OFF ∉ ws → t.OFF = s.OFF) ∧ (.T ∉ ws → t.T = s.T) ∧ (.NCOPY ∉ ws → t.NCOPY = s.NCOPY) ∧
      (.MARKED ∉ ws → t.MARKED = s.MARKED) ∧ (.MSGP ∉ ws → t.MSGP = s.MSGP) ∧ (.PHASE ∉ ws → t.PHASE = s.PHASE) ∧
      (.DONE ∉ ws → t.DONE = s.DONE) ∧ (.ERR ∉ ws → t.ERR = s.ERR) ∧ (.ERRCODE ∉ ws → t.ERRCODE = s.ERRCODE) ∧
      (.REJ ∉ ws → t.REJ = s.REJ) :=
  Reg.forall_iff

theorem WritesOnly.refl (ws : List Reg) (s : State) : WritesOnly ws s s := by
  simp [writesOnly_iff]

theorem execStart_writesOnly (m : Bool) (s t : State) (h : execStart m s = .next t) : WritesOnly (mayWrite (.start m)) s t := by
  rcases execStart_cases _ _ _ h with ⟨-, rfl⟩ | ⟨-, rfl⟩ <;> simp [writesOnly_iff, mayWrite]

theorem execWrcmd_writesOnly (c : BitVec 8) (s t : State) (h : execWrcmd c s = .next t) :
    WritesOnly (mayWrite (.wrcmd c)) s t := by
  rcases execWrcmd_cases _ _ _ h with ⟨_, -, rfl⟩ | ⟨_, -, h⟩ | ⟨_, -, h⟩ | ⟨_, -, h⟩
  · exact .refl _ _
  · exact execStart_writesOnly _ _ _ h
  · rw [execClear_cases _ _ _ h]
    simp [writesOnly_iff, mayWrite]
  · rcases illegalCommand_cases _ _ h with ⟨-, rfl⟩ | ⟨-, rfl⟩ <;> simp [writesOnly_iff, mayWrite]

/-- CHECK's error entry writes DONE <- 0 beside its entries of the table (R216). -/
theorem execCheck_writesOnly (s t : State) (h : execCheck s = .next t) : WritesOnly (.DONE :: mayWrite .check) s t := by
  rcases execCheck_cases _ _ h with ⟨-, rfl⟩ | ⟨-, -, -, rfl⟩ | ⟨-, -, rfl⟩ <;> simp [writesOnly_iff, mayWrite]

theorem exec_writesOnly (i : Instr) (s t : State) (hi : i ≠ .check) (h : exec i s = .next t) :
    WritesOnly (mayWrite i) s t := by
  cases i <;> simp only [exec] at h
  case check => exact absurd rfl hi
  case start => exact execStart_writesOnly _ _ _ h
  case wrcmd => exact execWrcmd_writesOnly _ _ _ h
  case bcopy => rcases execBcopy_cases _ _ h with ⟨-, rfl⟩ | ⟨_, -, rfl⟩ <;> simp [writesOnly_iff, mayWrite]
  case bmark => rcases execBmark_cases _ _ h with ⟨-, -, rfl⟩ | ⟨-, rfl⟩ <;> simp [writesOnly_iff, mayWrite]
  case blen => rcases execBlen_cases _ _ h with ⟨-, rfl⟩ | ⟨-, rfl⟩ <;> simp [writesOnly_iff, mayWrite]
  case next => rcases execNext_cases _ _ h with ⟨-, rfl⟩ | ⟨-, rfl⟩ <;> simp [writesOnly_iff, mayWrite]
  case rddigest => rcases execRddigest_cases _ _ h with ⟨-, rfl⟩ | ⟨-, rfl⟩ <;> simp [writesOnly_iff, mayWrite]
  case wrlen => rcases execWrlen_cases _ _ _ h with ⟨-, rfl⟩ | ⟨-, rfl⟩ <;> simp [writesOnly_iff, mayWrite]
  all_goals injection h with h; subst h; simp [writesOnly_iff, mayWrite]

theorem execStart_answers (m : Bool) (s : State) : ∃ t : State, execStart m s = .next t := by
  unfold execStart
  split <;> exact ⟨_, rfl⟩

theorem execWrcmd_answers (c : BitVec 8) (s : State) : ∃ t : State, execWrcmd c s = .next t := by
  unfold execWrcmd
  split
  · exact ⟨_, rfl⟩
  · exact execStart_answers _ s
  · exact ⟨_, rfl⟩
  · unfold illegalCommand
    split <;> exact ⟨_, rfl⟩

/-- No meaning ends in a fault or a refusal (log 27). -/
theorem exec_answers (i : Instr) (s : State) : ∃ t : State, exec i s = .next t := by
  cases i <;> simp only [exec]
  case start => exact execStart_answers _ s
  case wrcmd => exact execWrcmd_answers _ s
  case check => unfold execCheck; split_ifs <;> exact ⟨_, rfl⟩
  case bcopy => unfold execBcopy; split <;> exact ⟨_, rfl⟩
  case bmark => unfold execBmark; split <;> exact ⟨_, rfl⟩
  case blen => unfold execBlen; split <;> exact ⟨_, rfl⟩
  case next => unfold execNext; split <;> exact ⟨_, rfl⟩
  case rddigest => unfold execRddigest; split <;> exact ⟨_, rfl⟩
  case wrlen => unfold execWrlen; split <;> exact ⟨_, rfl⟩
  all_goals exact ⟨_, rfl⟩

/-- Settles O46: one frame lemma per meaning; CHECK's write of DONE <- 0 leaves a DONE that is 0 as it is. -/
theorem operationsWriteOnlyTheirRegisters : Obligations.OperationsWriteOnlyTheirRegisters := by
  unfold Obligations.OperationsWriteOnlyTheirRegisters
  intro i s hdone
  obtain ⟨t, ht⟩ := exec_answers i s
  refine ⟨t, ht, ?_⟩
  by_cases hi : i = .check
  · subst hi
    have hkept : Reg.DONE.same s t := by
      rcases execCheck_cases _ _ ht with ⟨-, rfl⟩ | ⟨-, -, -, rfl⟩ | ⟨-, -, rfl⟩ <;> simp [Reg.same, hdone rfl]
    intro r hr
    by_cases hrd : r = .DONE
    · exact hrd ▸ hkept
    · exact execCheck_writesOnly s t ht r (by simp [hrd, hr])
  · exact exec_writesOnly i s t hi ht

/-! ## Who writes a register -/

/-- A register other than DONE that a step changes is written by the micro-operation that PHASE selects, by a command, by a
write of LEN or by the reset input. -/
theorem step_writer (s t : State) (r : Reg) (hrd : r ≠ .DONE) (h : step s = .next t) (hne : ¬ r.same s t) :
    (s.turn = .sequencer ∧ r ∈ mayWrite (decodePhase s.PHASE)) ∨
    (∃ v : BitVec 256, s.turn = .hostWrite 0 v ∧ r ∈ mayWrite (.wrcmd (v.setWidth 8))) ∨
    (∃ v : BitVec 256, s.turn = .hostWrite 2 v ∧ execWrlen (v.setWidth 64) s.popTurn = .next t ∧
      r ∈ mayWrite (.wrlen (v.setWidth 64))) ∨
    (s.turn = .reset ∧ t = s.popTurn.resetInput) := by
  have hpop : r.same s.popTurn t ↔ r.same s t := by cases r <;> exact Iff.rfl
  have written {ws : List Reg} (hw : WritesOnly ws s.popTurn t) : r ∈ ws := by_contra fun hr => hne (hpop.mp (hw r hr))
  rcases step_inversion s t h with ⟨ht, he⟩ | ⟨_, _, _, -, rfl⟩ | ⟨_, _, -, -, -, rfl⟩ | ⟨v, ht, he⟩ | ⟨v, ht, he⟩ |
    ⟨a, v, -, rfl⟩ | ⟨ht, rfl⟩
  · by_cases hi : decodePhase s.PHASE = .check
    · rw [hi] at he ⊢
      exact .inl ⟨ht, by simpa [hrd] using written (execCheck_writesOnly _ _ he)⟩
    · exact .inl ⟨ht, written (exec_writesOnly _ _ _ hi he)⟩
  · exact absurd (by cases r <;> rfl) hne
  · exact absurd (by cases r <;> rfl) hne
  · exact .inr (.inl ⟨v, ht, written (execWrcmd_writesOnly _ _ _ he)⟩)
  · exact .inr (.inr (.inl ⟨v, ht, he, written (exec_writesOnly (.wrlen _) _ _ (by simp) he)⟩))
  · exact absurd (by cases r <;> rfl) hne
  · exact .inr (.inr (.inr ⟨ht, rfl⟩))

theorem LEN_not_mem_mayWrite_decodePhase (p : BitVec 4) : Reg.LEN ∉ mayWrite (decodePhase p) := by
  revert p
  decide

theorem H_mem_mayWrite_decodePhase (p : BitVec 4) : Reg.H ∈ mayWrite (decodePhase p) → p = 2#4 ∨ p = 12#4 := by
  revert p
  decide

/-- Settles O52: of the writers of a register, only WRLEN at REST and reset write LEN. -/
theorem onlyTheHostWritesLen : Obligations.OnlyTheHostWritesLen := by
  unfold Obligations.OnlyTheHostWritesLen
  intro s t h hne
  rcases step_writer s t .LEN (by decide) h hne with ⟨-, hr⟩ | ⟨_, -, hr⟩ | ⟨v, ht, he, -⟩ | ⟨ht, rfl⟩
  · exact absurd hr (LEN_not_mem_mayWrite_decodePhase _)
  · simp [mayWrite] at hr
  · rcases execWrlen_cases _ _ _ he with ⟨hp, rfl⟩ | ⟨-, rfl⟩
    · exact .inl ⟨hp, v, ht, rfl⟩
    · exact absurd rfl hne
  · exact .inr ⟨ht, rfl⟩

/-- Settles O53: of the writers of a register, only INIT and ACCUM write H, and at ACCUM the invariant gives T = 64. -/
theorem hashStateChangesOnlyAtInitAndAccum : Obligations.HashStateChangesOnlyAtInitAndAccum := by
  unfold Obligations.HashStateChangesOnlyAtInitAndAccum
  intro s t hinv h hne
  rcases step_writer s t .H (by decide) h hne with ⟨ht, hr⟩ | ⟨_, -, hr⟩ | ⟨_, -, -, hr⟩ | ⟨-, rfl⟩
  · rcases H_mem_mayWrite_decodePhase _ hr with hp | hp
    · exact ⟨ht, .inl hp⟩
    · exact ⟨ht, .inr ⟨hp, hinv.rounds_done (by simp [hp])⟩⟩
  · simp [mayWrite] at hr
  · simp [mayWrite] at hr
  · exact absurd rfl hne

/-! ## The status flags -/

/-- The stored flags of STATUS: DONE, ERR, ERRCODE, REJ (R41). -/
def State.flags (s : State) : Bool × Bool × BitVec 2 × Bool := (s.DONE, s.ERR, s.ERRCODE, s.REJ)

/-- Everything a step can do to the status flags, with the event that does it (R37 to R39, R214). -/
inductive FlagEvent (s t : State) : Prop
  | untouched (hf : t.flags = s.flags)
  | finished (ht : s.turn = .sequencer) (hp : s.PHASE = 14#4) (hf : t.flags = (true, s.ERR, s.ERRCODE, s.REJ))
  | checkFailed (n : BitVec 2) (hn : n ≠ 0#2) (ht : s.turn = .sequencer) (hp : s.PHASE = 1#4)
      (hf : t.flags = (false, true, n, s.REJ))
  | started (c : BitVec 8) (m : Bool) (hw : WritesCommand s.turn c) (hc : decodeCommand c = .start m) (hp : s.PHASE = 0#4)
      (hf : t.flags = (false, false, 0#2, s.REJ))
  | illegalByte (c : BitVec 8) (hw : WritesCommand s.turn c) (hc : decodeCommand c = .illegal c) (hp : s.PHASE = 0#4)
      (hf : t.flags = (false, true, 3#2, s.REJ))
  | dropped (hp : s.PHASE ≠ 0#4)
      (hw : (∃ v : BitVec 256, s.turn = .hostWrite 2 v) ∨
        ∃ c : BitVec 8, WritesCommand s.turn c ∧ ((∃ m, decodeCommand c = .start m) ∨ decodeCommand c = .illegal c))
      (hf : t.flags = (s.DONE, s.ERR, s.ERRCODE, true))
  | cleared (c : BitVec 8) (x : Bool) (hw : WritesCommand s.turn c) (hc : decodeCommand c = .clear x)
      (hf : t.flags = (false, false, 0#2, false))
  | reset (ht : s.turn = .reset) (hf : t.flags = (false, false, 0#2, false))

theorem decodeCommand_illegal_eq (c b : BitVec 8) (h : decodeCommand c = .illegal b) : b = c := by
  unfold decodeCommand at h
  split_ifs at h
  injection h with h
  exact h.symm

theorem decodePhase_ne_check (p : BitVec 4) (hp : p ≠ 1#4) : decodePhase p ≠ .check := by
  revert p
  decide

theorem flags_not_mem_mayWrite_decodePhase (p : BitVec 4) (h1 : p ≠ 1#4) (h14 : p ≠ 14#4) :
    ∀ r ∈ [Reg.DONE, .ERR, .ERRCODE, .REJ], r ∉ mayWrite (decodePhase p) := by
  revert p
  decide

theorem flagEvent_of_sequencer (s t : State) (ht : s.turn = .sequencer)
    (he : exec (decodePhase s.PHASE) s.popTurn = .next t) : FlagEvent s t := by
  by_cases h1 : s.PHASE = 1#4
  · rw [h1] at he
    rcases execCheck_cases _ _ he with ⟨-, rfl⟩ | ⟨-, -, -, rfl⟩ | ⟨-, -, rfl⟩
    · exact .checkFailed 1#2 (by decide) ht h1 rfl
    · exact .checkFailed 2#2 (by decide) ht h1 rfl
    · exact .untouched rfl
  by_cases h14 : s.PHASE = 14#4
  · rw [h14] at he
    injection he with he
    subst he
    exact .finished ht h14 rfl
  have hkept := exec_writesOnly _ _ _ (decodePhase_ne_check _ h1) he
  have hnot := flags_not_mem_mayWrite_decodePhase _ h1 h14
  have hdone : t.DONE = s.DONE := hkept .DONE (hnot _ (by simp))
  have herr : t.ERR = s.ERR := hkept .ERR (hnot _ (by simp))
  have hcode : t.ERRCODE = s.ERRCODE := hkept .ERRCODE (hnot _ (by simp))
  have hrej : t.REJ = s.REJ := hkept .REJ (hnot _ (by simp))
  exact .untouched (by simp only [State.flags, hdone, herr, hcode, hrej])

theorem flagEvent_of_command (s t : State) (v : BitVec 256) (ht : s.turn = .hostWrite 0 v)
    (he : execWrcmd (v.setWidth 8) s.popTurn = .next t) : FlagEvent s t := by
  have hw : WritesCommand s.turn (v.setWidth 8) := ⟨v, ht, rfl⟩
  rcases execWrcmd_cases _ _ _ he with ⟨_, -, rfl⟩ | ⟨m, hc, he⟩ | ⟨x, hc, he⟩ | ⟨b, hc, he⟩
  · exact .untouched rfl
  · rcases execStart_cases _ _ _ he with ⟨hp, rfl⟩ | ⟨hp, rfl⟩
    · exact .started _ m hw hc hp rfl
    · exact .dropped hp (.inr ⟨_, hw, .inl ⟨m, hc⟩⟩) rfl
  · rw [execClear_cases _ _ _ he]
    exact .cleared _ x hw hc rfl
  · rw [decodeCommand_illegal_eq _ _ hc] at hc
    rcases illegalCommand_cases _ _ he with ⟨hp, rfl⟩ | ⟨hp, rfl⟩
    · exact .illegalByte _ hw hc hp rfl
    · exact .dropped hp (.inr ⟨_, hw, .inr hc⟩) rfl

theorem step_flagEvent (s t : State) (h : step s = .next t) : FlagEvent s t := by
  rcases step_inversion s t h with ⟨ht, he⟩ | ⟨_, _, _, -, rfl⟩ | ⟨_, _, -, -, -, rfl⟩ | ⟨v, ht, he⟩ | ⟨v, ht, he⟩ |
    ⟨a, v, -, rfl⟩ | ⟨ht, rfl⟩
  · exact flagEvent_of_sequencer s t ht he
  · exact .untouched rfl
  · exact .untouched rfl
  · exact flagEvent_of_command s t v ht he
  · rcases execWrlen_cases _ _ _ he with ⟨-, rfl⟩ | ⟨hp, rfl⟩
    · exact .untouched rfl
    · exact .dropped hp (.inl ⟨v, ht⟩) rfl
  · exact .untouched rfl
  · exact .reset ht rfl

section
variable {s t : State} (e : FlagEvent s t)
include e

theorem FlagEvent.done_set (h0 : s.DONE = false) (h1 : t.DONE = true) : s.turn = .sequencer ∧ s.PHASE = 14#4 := by
  cases e
  case finished ht hp _ => exact ⟨ht, hp⟩
  all_goals simp_all [State.flags]

theorem FlagEvent.done_cleared (hrest : s.PHASE = 0#4) (h1 : s.DONE = true) (h0 : t.DONE = false) :
    s.turn = .reset ∨ ∃ c : BitVec 8, WritesCommand s.turn c ∧ ((∃ x, decodeCommand c = .clear x) ∨
      (s.PHASE = 0#4 ∧ ((∃ m, decodeCommand c = .start m) ∨ decodeCommand c = .illegal c))) := by
  cases e
  case started c m hw hc hp _ => exact .inr ⟨c, hw, .inr ⟨hp, .inl ⟨m, hc⟩⟩⟩
  case illegalByte c hw hc hp _ => exact .inr ⟨c, hw, .inr ⟨hp, .inr hc⟩⟩
  case cleared c x hw hc _ => exact .inr ⟨c, hw, .inl ⟨x, hc⟩⟩
  case reset ht _ => exact .inl ht
  all_goals simp_all [State.flags]

theorem FlagEvent.err_set (h : s.ERR = false ∧ t.ERR = true ∨ t.ERRCODE ≠ s.ERRCODE ∧ t.ERRCODE ≠ 0#2) :
    (s.turn = .sequencer ∧ s.PHASE = 1#4) ∨
      (s.PHASE = 0#4 ∧ ∃ c : BitVec 8, WritesCommand s.turn c ∧ decodeCommand c = .illegal c) := by
  cases e
  case checkFailed _ _ ht hp _ => exact .inl ⟨ht, hp⟩
  case illegalByte c hw hc hp _ => exact .inr ⟨hp, c, hw, hc⟩
  all_goals simp_all [State.flags]

theorem FlagEvent.err_cleared (h : s.ERR = true ∧ t.ERR = false ∨ s.ERRCODE ≠ 0#2 ∧ t.ERRCODE = 0#2) :
    s.turn = .reset ∨ ∃ c : BitVec 8, WritesCommand s.turn c ∧ ((∃ x, decodeCommand c = .clear x) ∨
      (s.PHASE = 0#4 ∧ ∃ m, decodeCommand c = .start m)) := by
  cases e
  case started c m hw hc hp _ => exact .inr ⟨c, hw, .inr ⟨hp, m, hc⟩⟩
  case cleared c x hw hc _ => exact .inr ⟨c, hw, .inl ⟨x, hc⟩⟩
  case reset ht _ => exact .inl ht
  all_goals simp_all [State.flags]

theorem FlagEvent.rej_set (h0 : s.REJ = false) (h1 : t.REJ = true) :
    s.PHASE ≠ 0#4 ∧ ((∃ v : BitVec 256, s.turn = .hostWrite 2 v) ∨
      ∃ c : BitVec 8, WritesCommand s.turn c ∧ ((∃ m, decodeCommand c = .start m) ∨ decodeCommand c = .illegal c)) := by
  cases e
  case dropped hp hw _ => exact ⟨hp, hw⟩
  all_goals simp_all [State.flags]

theorem FlagEvent.rej_cleared (h1 : s.REJ = true) (h0 : t.REJ = false) :
    s.turn = .reset ∨ ∃ (c : BitVec 8) (x : Bool), WritesCommand s.turn c ∧ decodeCommand c = .clear x := by
  cases e
  case cleared c x hw hc _ => exact .inr ⟨c, x, hw, hc⟩
  case reset ht _ => exact .inl ht
  all_goals simp_all [State.flags]

end

/-- Settles O51: a case analysis of the events that touch the flags, clause by clause. DONE = 1 is at REST by the invariant. -/
theorem whoSetsAndClearsTheFlags : Obligations.WhoSetsAndClearsTheFlags := by
  unfold Obligations.WhoSetsAndClearsTheFlags
  intro s t h
  have e := step_flagEvent s t h
  exact ⟨e.done_set, fun hinv h1 => e.done_cleared (hinv.done_at_rest h1).1 h1, e.err_set, e.err_cleared, e.rej_set,
    e.rej_cleared⟩

/-! ## The invariant -/

/-- At REST the invariant is about the memory and the result flags only. -/
theorem Inv.of_rest {t : State} (hmem : t.msg.wf = true) (hp : t.PHASE = 0#4) (hdone : t.DONE = true → t.ERR = false)
    (hcode : t.ERR = true ↔ t.ERRCODE ≠ 0#2) : Inv t := by
  constructor
  case memory => exact hmem
  case done_at_rest => exact fun h => ⟨hp, hdone h⟩
  case err_at_rest => exact fun _ => hp
  case errcode_iff => exact hcode
  all_goals simp [hp]

/-- Settles O48: the reset state is at REST with no flag set and nothing listed in memory. -/
theorem resetMeetsTheInvariant : Obligations.ResetMeetsTheInvariant :=
  Inv.of_rest rfl rfl (fun _ => rfl) (by simp [State.reset])

/-- CNT counts the blocks of the padded message (R120). -/
theorem cnt_toNat (s : State) (hlen : s.LEN.toNat < 2 ^ 61) :
    ((lenQuot s).setWidth 56 + 1#56 + (if 56 ≤ (lenRem s).toNat then 1#56 else 0#56)).toNat = blockCount s.LEN.toNat := by
  have hquot : (lenQuot s).toNat = s.LEN.toNat / 64 := by
    simp only [lenQuot, BitVec.extractLsb'_toNat, Nat.shiftRight_eq_div_pow]
    omega
  have hrem : (lenRem s).toNat = s.LEN.toNat % 64 := by simp [lenRem]
  rw [blockCount, hrem]
  split <;> simp [BitVec.toNat_add, hquot] <;> omega

section
variable {s t : State} (h : Inv s)
include h

/-- A busy CORE shows no result (30_encoding.md R86). -/
theorem Inv.result_clear_of_busy (hp : s.PHASE ≠ 0#4) : s.DONE = false ∧ s.ERR = false ∧ s.ERRCODE = 0#2 := by
  have herr : s.ERR ≠ true := fun he => hp (h.err_at_rest he)
  refine ⟨Bool.eq_false_iff.mpr fun hd => hp (h.done_at_rest hd).1, Bool.eq_false_iff.mpr herr, ?_⟩
  simpa using mt h.errcode_iff.mpr herr

/-- The invariant says nothing of the register files, REJ and the host's side. -/
theorem Inv.of_other_fields (H V : Vector Word 8) (W : Vector Word 64) (B : Vector Byte 64) (D : Vector Byte 32) (REJ : Bool)
    (turns : List Turn) (lastRead : Option HostValue) (fresh : Nat) :
    Inv { s with
      H := H, V := V, W := W, B := B, D := D, REJ := REJ, turns := turns, lastRead := lastRead, fresh := fresh } :=
  { h with }

theorem Inv.drop : Inv s.drop := h.of_other_fields ..

/-! ### The micro-operations -/

/-- INIT, BZERO, BLEN, WLOAD, WEXP and ACCUM: the invariant asks the same of the run's registers at the next code. -/
theorem Inv.goto_next_phase (p : BitVec 4)
    (hs : s.PHASE.toNat = 2 ∨ s.PHASE.toNat = 4 ∨ s.PHASE.toNat = 7 ∨ s.PHASE.toNat = 8 ∨ s.PHASE.toNat = 9 ∨
      s.PHASE.toNat = 12)
    (hp : p.toNat = s.PHASE.toNat + 1) : Inv (s.goto p) := by
  obtain ⟨hdone, herr, -⟩ := h.result_clear_of_busy (by rintro h0; simp [h0] at hs)
  exact {
    memory := h.memory
    phase_legal := show p.toNat ≤ 14 by omega
    done_at_rest := by simp [hdone]
    err_at_rest := by simp [herr]
    errcode_iff := h.errcode_iff
    preconditions := fun _ => h.preconditions (by omega)
    block_index := fun (_ : 4 ≤ p.toNat) => h.block_index (by omega)
    consumed_before := fun (_ : 4 ≤ p.toNat) (_ : p.toNat ≤ 5) => h.consumed_before (by omega) (by omega)
    consumed_after := fun (_ : 6 ≤ p.toNat) (_ : p.toNat ≤ 13) => h.consumed_after (by omega) (by omega)
    copied := fun (_ : 6 ≤ p.toNat) (_ : p.toNat ≤ 13) => h.copied (by omega) (by omega)
    marked_before := fun (_ : 4 ≤ p.toNat) (_ : p.toNat ≤ 6) => h.marked_before (by omega) (by omega)
    marked_after := fun (_ : 7 ≤ p.toNat) (_ : p.toNat ≤ 13) => h.marked_after (by omega) (by omega)
    at_final := fun (_ : p.toNat = 14) => by omega
    round_index := fun (_ : p.toNat = 11) => by omega
    rounds_done := fun (_ : 12 ≤ p.toNat) => h.rounds_done (by omega) }

theorem execCheck_keeps_inv (hp : s.PHASE = 1#4) (he : execCheck s = .next t) : Inv t := by
  obtain ⟨hdone, herr, hcode⟩ := h.result_clear_of_busy (by simp [hp])
  rcases execCheck_cases _ _ he with ⟨-, rfl⟩ | ⟨-, -, -, rfl⟩ | ⟨hlen, hbuf, rfl⟩
  · exact .of_rest h.memory rfl (by simp) (by simp)
  · exact .of_rest h.memory rfl (by simp) (by simp)
  · constructor
    case preconditions => exact fun _ => ⟨hlen, hbuf⟩
    all_goals simp [h.memory, hdone, herr, hcode]

theorem execCnt_keeps_inv (hp : s.PHASE = 3#4) (he : execCnt s = .next t) : Inv t := by
  obtain ⟨hdone, herr, hcode⟩ := h.result_clear_of_busy (by simp [hp])
  obtain ⟨hlen, hbuf⟩ := h.preconditions (by simp [hp])
  have hblocks : 1 ≤ blockCount s.LEN.toNat := by unfold blockCount; omega
  injection he with he
  subst he
  constructor
  case preconditions => exact fun _ => ⟨hlen, hbuf⟩
  case block_index => exact fun _ => ⟨cnt_toNat s hlen, by simp, by simpa only [State.goto_N, State.goto_I, cnt_toNat s hlen]⟩
  all_goals simp [h.memory, hdone, herr, hcode]

theorem execBcopy_keeps_inv (hp : s.PHASE = 5#4) (he : execBcopy s = .next t) : Inv t := by
  rcases execBcopy_cases _ _ he with ⟨-, rfl⟩ | ⟨bytes, -, rfl⟩
  · exact h
  obtain ⟨hdone, herr, hcode⟩ := h.result_clear_of_busy (by simp [hp])
  have hpre := h.preconditions (by simp [hp])
  have hblock := h.block_index (by simp [hp])
  have hbefore := h.consumed_before (by simp [hp]) (by simp [hp])
  have hmark := h.marked_before (by simp [hp]) (by simp [hp])
  have hcount : copyCount s ≤ 64 := Nat.min_le_right _ _
  have hafter : s.OFF.toNat + copyCount s = min (64 * s.I.toNat) s.LEN.toNat := by unfold copyCount; omega
  have hOFF : (s.OFF + BitVec.ofNat 61 (copyCount s)).toNat = s.OFF.toNat + copyCount s := by simp; omega
  have hNCOPY : (BitVec.ofNat 7 (copyCount s)).toNat = copyCount s := by simp; omega
  constructor
  case preconditions => exact fun _ => hpre
  case block_index => exact fun _ => hblock
  case consumed_after => exact fun _ _ => hOFF.trans hafter
  case copied => exact fun _ _ => by simp only [State.goto_I, State.goto_LEN, State.goto_NCOPY, State.goto_OFF]; omega
  case marked_before => exact fun _ _ => hmark
  all_goals simp [h.memory, hdone, herr, hcode]

/-- The marker's block is the first one with a free byte (R123, R128). -/
theorem execBmark_keeps_inv (hp : s.PHASE = 6#4) (he : execBmark s = .next t) : Inv t := by
  obtain ⟨hdone, herr, hcode⟩ := h.result_clear_of_busy (by simp [hp])
  have hpre := h.preconditions (by simp [hp])
  have hblock := h.block_index (by simp [hp])
  have hoff := h.consumed_after (by simp [hp]) (by simp [hp])
  have hcopied := h.copied (by simp [hp]) (by simp [hp])
  have hmark := h.marked_before (by simp [hp]) (by simp [hp])
  have hfree : s.NCOPY.toNat < 64 ↔ s.LEN.toNat / 64 + 1 ≤ s.I.toNat := by omega
  rcases execBmark_cases _ _ he with ⟨-, hn, rfl⟩ | ⟨hn, rfl⟩
  all_goals
    constructor
    case preconditions => exact fun _ => hpre
    case block_index => exact fun _ => hblock
    case consumed_after => exact fun _ _ => hoff
    case copied => exact fun _ _ => hcopied
  case inl.marked_after => simpa using hfree.mp hn
  case inr.marked_after =>
    refine fun _ _ => hmark.trans ⟨fun hpast => Nat.le_of_lt hpast, fun hreached => ?_⟩
    rcases hn with hm | hfull
    · exact hmark.mp hm
    · exact absurd (hfree.mpr hreached) (Nat.not_lt.mpr hfull)
  all_goals simp [h.memory, hdone, herr, hcode]

theorem execBlen_keeps_inv (hp : s.PHASE = 7#4) (he : execBlen s = .next t) : Inv t := by
  have hnext : Inv (s.goto 8#4) := h.goto_next_phase _ (by simp [hp]) (by simp [hp])
  rcases execBlen_cases _ _ he with ⟨-, rfl⟩ | ⟨-, rfl⟩
  · exact hnext.of_other_fields ..
  · exact hnext

/-- SEED and ROUND: on to a round that is left, or past the last one with T = 64. -/
theorem Inv.goto_round (hp : s.PHASE.toNat = 10 ∨ s.PHASE.toNat = 11) (T : BitVec 7) (p : BitVec 4)
    (hT : (p = 11#4 ∧ T.toNat ≤ 63) ∨ (p = 12#4 ∧ T = 64#7)) : Inv ({ s with T := T }.goto p) := by
  obtain ⟨hdone, herr, hcode⟩ := h.result_clear_of_busy (by rintro h0; simp [h0] at hp)
  have hpre := h.preconditions (by omega)
  have hblock := h.block_index (by omega)
  have hoff := h.consumed_after (by omega) (by omega)
  have hcopied := h.copied (by omega) (by omega)
  have hmark := h.marked_after (by omega) (by omega)
  rcases hT with ⟨rfl, hT⟩ | ⟨rfl, rfl⟩
  all_goals
    constructor
    case preconditions => exact fun _ => hpre
    case block_index => exact fun _ => hblock
    case consumed_after => exact fun _ _ => hoff
    case copied => exact fun _ _ => hcopied
    case marked_after => exact fun _ _ => hmark
  case inl.round_index => exact fun _ => hT
  all_goals simp [h.memory, hdone, herr, hcode]

theorem execSeed_keeps_inv (hp : s.PHASE = 10#4) (he : execSeed s = .next t) : Inv t := by
  injection he with he
  subst he
  exact (h.goto_round (by simp [hp]) 0#7 11#4 (by simp)).of_other_fields ..

theorem execRound_keeps_inv (hp : s.PHASE = 11#4) (he : execRound s = .next t) : Inv t := by
  have hT := h.round_index (by simp [hp])
  injection he with he
  subst he
  refine (h.goto_round (by simp [hp]) (s.T + 1#7) (if s.T = 63#7 then 12#4 else 11#4) ?_).of_other_fields ..
  by_cases hlast : s.T = 63#7
  · exact .inr ⟨by simp [hlast], by simp [hlast]⟩
  · have hmore : s.T.toNat ≠ 63 := fun h63 => hlast (BitVec.eq_of_toNat_eq h63)
    exact .inl ⟨by simp [hlast], by simp; omega⟩

theorem execNext_keeps_inv (hp : s.PHASE = 13#4) (he : execNext s = .next t) : Inv t := by
  obtain ⟨hdone, herr, hcode⟩ := h.result_clear_of_busy (by simp [hp])
  have hpre := h.preconditions (by simp [hp])
  obtain ⟨hN, hI, hIN⟩ := h.block_index (by simp [hp])
  have hoff := h.consumed_after (by simp [hp]) (by simp [hp])
  have hmark := h.marked_after (by simp [hp]) (by simp [hp])
  rcases execNext_cases _ _ he with ⟨hlast, rfl⟩ | ⟨hmore, rfl⟩
  · have hall : s.LEN.toNat / 64 + 1 ≤ s.I.toNat := by rw [hlast, hN, blockCount]; omega
    constructor
    case preconditions => exact fun _ => hpre
    case block_index => exact fun _ => ⟨hN, hI, hIN⟩
    case at_final => exact fun _ => ⟨hlast, show s.OFF.toNat = s.LEN.toNat by omega, hmark.mpr hall⟩
    case rounds_done => exact fun _ => h.rounds_done (by simp [hp])
    all_goals simp [h.memory, hdone, herr, hcode]
  · have hlt : s.I.toNat < s.N.toNat := Nat.lt_of_le_of_ne hIN fun e => hmore (BitVec.eq_of_toNat_eq e)
    have hI' : (s.I + 1#56).toNat = s.I.toNat + 1 := by simp; omega
    constructor
    case preconditions => exact fun _ => hpre
    case block_index =>
      exact fun _ => ⟨hN, by simp only [State.goto_I, hI']; omega, by simp only [State.goto_I, hI']; exact hlt⟩
    case consumed_before => exact fun _ _ => by simp only [State.goto_I, hI']; exact hoff
    case marked_before => exact fun _ _ => hmark.trans (by simp only [State.goto_I, State.goto_LEN, hI']; omega)
    all_goals simp [h.memory, hdone, herr, hcode]

theorem execFinal_keeps_inv (hp : s.PHASE = 14#4) (he : execFinal s = .next t) : Inv t := by
  obtain ⟨-, herr, -⟩ := h.result_clear_of_busy (by simp [hp])
  injection he with he
  subst he
  exact .of_rest h.memory rfl (fun _ => herr) h.errcode_iff

/-- The sequencer's step, whatever PHASE selects, keeps the invariant. -/
theorem sequencer_keeps_inv (he : exec (decodePhase s.PHASE) s = .next t) : Inv t := by
  have hlegal := h.phase_legal
  rcases decodePhase_cases s.PHASE with ⟨hp, hi⟩ | ⟨hp, hi⟩ | ⟨hp, hi⟩ | ⟨hp, hi⟩ | ⟨hp, hi⟩ | ⟨hp, hi⟩ | ⟨hp, hi⟩ |
    ⟨hp, hi⟩ | ⟨hp, hi⟩ | ⟨hp, hi⟩ | ⟨hp, hi⟩ | ⟨hp, hi⟩ | ⟨hp, hi⟩ | ⟨hp, hi⟩ | ⟨hp, hi⟩ | ⟨hp, hi⟩ <;> rw [hi] at he
  · injection he with he; subst he; exact h
  · exact execCheck_keeps_inv h hp he
  · injection he with he; subst he
    exact (h.goto_next_phase 3#4 (by simp [hp]) (by simp [hp])).of_other_fields ..
  · exact execCnt_keeps_inv h hp he
  · injection he with he; subst he
    exact (h.goto_next_phase 5#4 (by simp [hp]) (by simp [hp])).of_other_fields ..
  · exact execBcopy_keeps_inv h hp he
  · exact execBmark_keeps_inv h hp he
  · exact execBlen_keeps_inv h hp he
  · injection he with he; subst he
    exact (h.goto_next_phase 9#4 (by simp [hp]) (by simp [hp])).of_other_fields ..
  · injection he with he; subst he
    exact (h.goto_next_phase 10#4 (by simp [hp]) (by simp [hp])).of_other_fields ..
  · exact execSeed_keeps_inv h hp he
  · exact execRound_keeps_inv h hp he
  · injection he with he; subst he
    exact (h.goto_next_phase 13#4 (by simp [hp]) (by simp [hp])).of_other_fields ..
  · exact execNext_keeps_inv h hp he
  · exact execFinal_keeps_inv h hp he
  · simp [hp] at hlegal

/-! ### The host's accesses -/

theorem execWrcmd_keeps_inv (c : BitVec 8) (he : execWrcmd c s = .next t) : Inv t := by
  rcases execWrcmd_cases _ _ _ he with ⟨_, -, rfl⟩ | ⟨m, -, he⟩ | ⟨_, -, he⟩ | ⟨_, -, he⟩
  · exact h
  · rcases execStart_cases _ _ _ he with ⟨-, rfl⟩ | ⟨-, rfl⟩
    · constructor <;> simp [h.memory]
    · exact h.drop
  · rw [execClear_cases _ _ _ he]
    exact .of_rest h.memory rfl (by simp) (by simp)
  · rcases illegalCommand_cases _ _ he with ⟨-, rfl⟩ | ⟨-, rfl⟩
    · exact .of_rest h.memory rfl (by simp) (by simp)
    · exact h.drop

theorem execWrlen_keeps_inv (v : BitVec 64) (he : execWrlen v s = .next t) : Inv t := by
  rcases execWrlen_cases _ _ _ he with ⟨hp, rfl⟩ | ⟨-, rfl⟩
  · exact .of_rest h.memory hp (fun hd => (h.done_at_rest hd).2) h.errcode_iff
  · exact h.drop

theorem step_keeps_inv (he : step s = .next t) : Inv t := by
  have hpop : Inv s.popTurn := h.of_other_fields ..
  rcases step_inversion s t he with ⟨-, he⟩ | ⟨_, _, _, -, rfl⟩ | ⟨_, _, -, -, -, rfl⟩ | ⟨v, -, he⟩ | ⟨v, -, he⟩ |
    ⟨a, v, -, rfl⟩ | ⟨-, rfl⟩
  · exact sequencer_keeps_inv hpop he
  · exact h.of_other_fields ..
  · exact hpop
  · exact execWrcmd_keeps_inv hpop _ he
  · exact execWrlen_keeps_inv hpop _ he
  · exact { hpop with memory := Memory.write_wf _ a v h.memory }
  · exact .of_rest h.memory rfl (by simp) (by simp)

end

/-- Settles O47: agent by agent, and the sequencer's step by the micro-operation that PHASE selects. -/
theorem everyStepKeepsTheInvariant : Obligations.EveryStepKeepsTheInvariant := by
  unfold Obligations.EveryStepKeepsTheInvariant
  exact fun s t h he => step_keeps_inv h he

/-! ## The tables -/

theorem nth_of_filter_range (p : Nat → Prop) [DecidablePred p] (m t n : Nat)
    (h : ((List.range m).filter fun k => decide (p k))[t]? = some n) : Nat.nth p t = n := by
  induction m with
  | zero => simp at h
  | succ m ih =>
    rw [List.range_succ, List.filter_append] at h
    by_cases hlt : t < ((List.range m).filter fun k => decide (p k)).length
    · exact ih (List.getElem?_append_left hlt ▸ h)
    · rw [List.getElem?_append_right (Nat.not_lt.mp hlt)] at h
      have hcount : Nat.count p m = ((List.range m).filter fun k => decide (p k)).length := List.countP_eq_length_filter
      by_cases hp : p m
      · simp only [hp, decide_true, List.filter_cons_of_pos, List.filter_nil, List.getElem?_singleton,
          Option.ite_none_right_eq_some, Option.some.injEq] at h
        obtain ⟨ht, rfl⟩ := h
        rw [show t = Nat.count p m by omega, Nat.nth_count hp]
      · simp [hp] at h

/-- The primes among the `n` numbers from `a` on. -/
def primesIn (a n : Nat) : List Nat := (List.range' a n).filter fun k => decide k.Prime

theorem primesIn_append (a m n : Nat) : primesIn a m ++ primesIn (a + m) n = primesIn a (m + n) := by
  simp [primesIn, ← List.filter_append]

/-- The primes below 150. -/
def primesBelow150 : List Nat :=
  [2, 3, 5, 7, 11, 13, 17, 19, 23, 29, 31, 37, 41, 43, 47, 53, 59, 61, 67, 71, 73, 79, 83, 89, 97, 101, 103, 107, 109, 113, 127,
   131, 137, 139, 149]

/-- The primes from 150 on that R30 uses, up to the 64th prime. -/
def primesFrom150 : List Nat :=
  [151, 157, 163, 167, 173, 179, 181, 191, 193, 197, 199, 211, 223, 227, 229, 233, 239, 241, 251, 257, 263, 269, 271, 277, 281,
   283, 293, 307, 311]

/-- The 64 primes of R30, the first eight of them those of R31. -/
def firstPrimes : Vector Nat 64 := ⟨(primesBelow150 ++ primesFrom150).toArray, rfl⟩

theorem primesIn_zero_150 : primesIn 0 150 = primesBelow150 := by
  norm_num [primesIn, primesBelow150, List.range', List.filter_cons]

theorem primesIn_150_162 : primesIn 150 162 = primesFrom150 := by
  norm_num [primesIn, primesFrom150, List.range', List.filter_cons]

theorem primesIn_zero_312 : primesIn 0 312 = firstPrimes.toList := by
  rw [← primesIn_append 0 150 162, primesIn_zero_150, primesIn_150_162]
  rfl

theorem nth_prime_eq_firstPrimes (t : Nat) (ht : t < 64) : Nat.nth Nat.Prime t = firstPrimes[t] := by
  apply nth_of_filter_range _ 312
  rw [List.range_eq_range']
  show (primesIn 0 312)[t]? = some firstPrimes[t]
  simp [primesIn_zero_312, ht]

/-- `w` is the first 32 bits of the fractional part of the `e`-th root of `n`: behind a whole part `k` it makes the largest
number whose `e`-th power is at most `n * 2 ^ (32 * e)`. Whole parts below 7 are all that R30 and R31 meet. -/
def isRootFraction (e n w : Nat) : Bool :=
  (List.range 7).any fun k =>
    decide ((k * 2 ^ 32 + w) ^ e ≤ n * 2 ^ (32 * e)) && decide (n * 2 ^ (32 * e) < (k * 2 ^ 32 + w + 1) ^ e)

theorem exists_root_of_isRootFraction (e n : Nat) (w : Word) (h : isRootFraction e n w.toNat = true) :
    ∃ c : Nat, c ^ e ≤ n * 2 ^ (32 * e) ∧ n * 2 ^ (32 * e) < (c + 1) ^ e ∧ w.toNat = c % 2 ^ 32 := by
  simp only [isRootFraction, List.any_eq_true, Bool.and_eq_true, decide_eq_true_eq] at h
  obtain ⟨k, -, hle, hlt⟩ := h
  exact ⟨k * 2 ^ 32 + w.toNat, hle, hlt, by omega⟩

theorem K_isRootFraction : ∀ t : Fin 64, isRootFraction 3 firstPrimes[t.val] (K[t.val]).toNat = true := by decide

theorem IV_isRootFraction : ∀ j : Fin 8, isRootFraction 2 firstPrimes[j.val] (IV[j.val]).toNat = true := by decide

/-- Settles O42: the first 64 primes are listed, and each entry is checked against its prime with integer powers. -/
theorem tablesAreFractionsOfRootsOfPrimes : Obligations.TablesAreFractionsOfRootsOfPrimes := by
  unfold Obligations.TablesAreFractionsOfRootsOfPrimes
  constructor
  · intro t
    rw [nth_prime_eq_firstPrimes t.val t.isLt]
    exact exists_root_of_isRootFraction 3 _ _ (K_isRootFraction t)
  · intro j
    rw [nth_prime_eq_firstPrimes j.val (by omega)]
    exact exists_root_of_isRootFraction 2 _ _ (IV_isRootFraction j)

/-! ## Reset and CLEAR -/

/-- Settles O7: the reset state's own fields, and the STATUS word they make. -/
theorem resetValuesAsStated : Obligations.ResetValuesAsStated :=
  ⟨rfl, rfl, rfl, rfl, rfl, rfl, rfl, by decide⟩

/-- Settles O12: CLEAR writes the flags, MSGP and PHASE only. -/
theorem clearLeavesTheDatapathInPlace : Obligations.ClearLeavesTheDatapathInPlace := by
  unfold Obligations.ClearLeavesTheDatapathInPlace
  intro x s
  refine ⟨_, rfl, ⟨(writesOnly_iff _ _ _).mpr ?_, fun _ => rfl, rfl⟩, rfl, rfl⟩
  simp

end Sys2Proof.Machine

/-! # Proofs about the message memory (20_memory.md) -/

namespace Sys2Proof.Machine

/-! ## Who writes the message memory -/

/-- A message turn selects no instruction: its step is the owner's change of the memory. -/
theorem step_of_message (s : State) (a : BitVec 61) (v : Option Byte) (h : s.turn = .message a v) :
    step s = .next (s.popTurn.setAnswer a v) := by
  rw [step_of_effect s (by rw [h]; rfl), h]
  rfl

/-- Of the turns that select no instruction, only the message's owner changes the memory. -/
theorem turnEffect_keeps_msg (u : Turn) (s : State) (hu : ∀ a v, u ≠ .message a v) : (turnEffect u s).msg = s.msg := by
  cases u with
  | message a v => exact absurd rfl (hu a v)
  | sequencer | hostRead | hostWrite | reset => rfl

/-- Settles O43: the step is `setAnswer`, and the memory's own laws give read after write and the canonical form. -/
theorem messageOwnerChangesOneOffset : Obligations.MessageOwnerChangesOneOffset := by
  unfold Obligations.MessageOwnerChangesOneOffset
  intro s a v rest hwf hturns
  refine ⟨_, step_of_message s a v (s.turn_of_cons _ _ hturns), Memory.read_write _ _ v hwf, Memory.write_wf _ a v hwf, ?_, ?_,
    rfl, rfl⟩
  · intro r
    cases r <;> rfl
  · simp [hturns]

/-- Settles O44: no instruction touches the memory, and of the other turns only the owner's does. -/
theorem coreNeverWritesMemory : Obligations.CoreNeverWritesMemory := by
  unfold Obligations.CoreNeverWritesMemory
  refine ⟨fun i s t h => (exec_keeps_outside i s t h).1, fun s t h hne => ?_⟩
  by_contra hno
  push Not at hno
  rcases step_cases s t h with ⟨i, -, he⟩ | ⟨-, rfl⟩
  · exact hne (exec_keeps_outside i _ t he).1
  · exact hne (turnEffect_keeps_msg _ _ hno)

/-! ## What the sequencer reads of it -/

theorem execWrcmd_with_msg (c : BitVec 8) (s t : State) (m : Memory) (h : execWrcmd c s = .next t) :
    execWrcmd c { s with msg := m } = .next { t with msg := m } := by
  unfold execWrcmd at h ⊢
  cases hc : decodeCommand c <;> simp only [hc, execNop, execStart, execClear, illegalCommand] at h ⊢
  case start | illegal => split_ifs at h ⊢ <;> injection h with h <;> subst h <;> rfl
  all_goals injection h with h; subst h; rfl

/-- BCOPY sees the memory through its row of reads only. -/
theorem execBcopy_with_msg (s t : State) (m : Memory)
    (hread : readFrom m s.OFF 0 (copyCount s) = readFrom s.msg s.OFF 0 (copyCount s)) (h : execBcopy s = .next t) :
    execBcopy { s with msg := m } = .next { t with msg := m } := by
  have hread' : readFrom m s.OFF 0 (copyCount { s with msg := m }) = readFrom s.msg s.OFF 0 (copyCount s) := hread
  rw [execBcopy, hread']
  rcases execBcopy_cases _ _ h with ⟨hr, rfl⟩ | ⟨bytes, hr, rfl⟩
  · rw [hr]
  · rw [hr]
    rfl

/-- Only BCOPY reads the message memory (R68): with another memory, in which BCOPY's reads are answered alike, an instruction
does the same to the rest of the state. -/
theorem exec_with_msg (i : Instr) (s t : State) (m : Memory)
    (hread : i = .bcopy → readFrom m s.OFF 0 (copyCount s) = readFrom s.msg s.OFF 0 (copyCount s)) (h : exec i s = .next t) :
    exec i { s with msg := m } = .next { t with msg := m } := by
  cases i <;> simp only [exec] at h ⊢
  case bcopy => exact execBcopy_with_msg s t m (hread rfl) h
  case wrcmd => exact execWrcmd_with_msg _ s t m h
  case start | check | bmark | blen | next | rddigest | wrlen =>
    simp only [execStart, execCheck, execBmark, execBlen, execNext, execRddigest, execWrlen] at h ⊢
    split_ifs at h ⊢ <;> injection h with h <;> subst h <;> rfl
  all_goals injection h with h; subst h; rfl

/-- BCOPY's reads lie below LEN, and LEN below 2^61 (R68, R190). -/
theorem Inv.bcopy_reads_below_LEN {s : State} (h : Inv s) (hp : s.PHASE = 5#4) :
    s.OFF.toNat + copyCount s ≤ s.LEN.toNat ∧ s.LEN.toNat < 2 ^ 61 := by
  have hoff := h.consumed_before (by simp [hp]) (by simp [hp])
  obtain ⟨hlen, -⟩ := h.preconditions (by simp [hp])
  exact ⟨by unfold copyCount; omega, hlen⟩

theorem decodePhase_eq_bcopy_iff (p : BitVec 4) : decodePhase p = .bcopy ↔ p = 5#4 := by
  revert p
  decide

/-- Settles O45: only BCOPY reads the memory, and under the invariant all its reads lie below LEN. -/
theorem noReadAtOrBeyondLen : Obligations.NoReadAtOrBeyondLen := by
  unfold Obligations.NoReadAtOrBeyondLen
  intro s m hinv hturn hm
  obtain ⟨t, ht⟩ := exec_answers (decodePhase s.PHASE) s.popTurn
  have hread : decodePhase s.PHASE = .bcopy → readFrom m s.OFF 0 (copyCount s) = readFrom s.msg s.OFF 0 (copyCount s) := by
    intro hb
    obtain ⟨hbelow, hlen⟩ := hinv.bcopy_reads_below_LEN ((decodePhase_eq_bcopy_iff _).mp hb)
    exact readFrom_congr m s.msg s.OFF 0 _ (by omega) fun j hj => hm _ (by omega)
  refine ⟨t, { t with msg := m }, ?_, ?_, fun r => by cases r <;> rfl⟩
  · rw [step_of_instr s _ (by rw [hturn]; rfl), ht]
  · have hturn' : { s with msg := m }.turn = .sequencer := hturn
    rw [step_of_instr _ (decodePhase s.PHASE) (by rw [hturn']; rfl)]
    exact exec_with_msg _ s.popTurn t m hread ht

end Sys2Proof.Machine

/-! # Proofs about the encoding (30_encoding.md) -/

namespace Sys2Proof

/-! ## Command bytes (R82) -/

theorem decodeCommand_eq_nop_iff (c : BitVec 8) (x : Bool) :
    decodeCommand c = .nop x ↔ c &&& 0xEF#8 = 0x00#8 ∧ c.getLsbD 4 = x := by
  unfold decodeCommand
  split_ifs <;> simp [*]

theorem decodeCommand_eq_start_iff (c : BitVec 8) (m : Bool) :
    decodeCommand c = .start m ↔ c &&& 0xEF#8 = 0x01#8 ∧ c.getLsbD 4 = m := by
  unfold decodeCommand
  split_ifs <;> simp [*]

theorem decodeCommand_eq_clear_iff (c : BitVec 8) (x : Bool) :
    decodeCommand c = .clear x ↔ c &&& 0xEF#8 = 0x02#8 ∧ c.getLsbD 4 = x := by
  unfold decodeCommand
  split_ifs <;> simp [*]

theorem decodeCommand_eq_illegal_iff (c : BitVec 8) :
    decodeCommand c = .illegal c ↔ ¬(c &&& 0xEF#8 = 0x00#8 ∨ c &&& 0xEF#8 = 0x01#8 ∨ c &&& 0xEF#8 = 0x02#8) := by
  unfold decodeCommand
  split_ifs <;> simp [*]

/-- A command byte is its tested bits with its bit 4. -/
theorem masked_or_commandBit (c : BitVec 8) : (c &&& 0xEF#8) ||| commandBit (c.getLsbD 4) = c := by
  revert c
  decide

/-- The bytes of a row of the command map: the row's match with either value of bit 4. -/
theorem commandFields_iff (c m : BitVec 8) (x : Bool) (hm : m &&& 0xEF#8 = m) :
    (c &&& 0xEF#8 = m ∧ c.getLsbD 4 = x) ↔ c = m ||| commandBit x := by
  constructor
  · rintro ⟨rfl, rfl⟩
    exact (masked_or_commandBit c).symm
  · rintro rfl
    revert m
    cases x <;> decide

/-- An accepted command byte is the encoding of its command. -/
theorem encode_of_decodeCommand (c : BitVec 8) (i : Instr) (h : (decodeCommand c).toDecoded = .ok i) : encode i = .cmd c := by
  cases hc : decodeCommand c with rw [hc] at h
  | nop x =>
    cases h
    rw [(commandFields_iff c _ x rfl).mp ((decodeCommand_eq_nop_iff c x).mp hc), encode]
  | start m =>
    cases h
    rw [(commandFields_iff c _ m rfl).mp ((decodeCommand_eq_start_iff c m).mp hc), encode]
  | clear x =>
    cases h
    rw [(commandFields_iff c _ x rfl).mp ((decodeCommand_eq_clear_iff c x).mp hc), encode]
  | illegal b => cases h

/-! ## PHASE codes (R84) and host accesses (R92) -/

theorem encode_decodePhase (p : BitVec 4) : encode (decodePhase p) = .phase p := by
  revert p
  decide

/-- The tags of the host accesses, one instruction each. -/
theorem decodeAccess_cases (tag : BitVec 3) (data : BitVec 256) :
    (tag = 0#3 ∧ decodeAccess tag data = .rdcmd) ∨ (tag = 1#3 ∧ decodeAccess tag data = .rdstatus) ∨
    (tag = 2#3 ∧ decodeAccess tag data = .rdlen) ∨ (tag = 3#3 ∧ decodeAccess tag data = .rddigest) ∨
    (tag = 4#3 ∧ decodeAccess tag data = .wrcmd (data.setWidth 8)) ∨
    (tag = 5#3 ∧ decodeAccess tag data = .wrstatus (data.setWidth 16)) ∨
    (tag = 6#3 ∧ decodeAccess tag data = .wrlen (data.setWidth 64)) ∨ (tag = 7#3 ∧ decodeAccess tag data = .wrdigest data) := by
  have htag : tag = 0#3 ∨ tag = 1#3 ∨ tag = 2#3 ∨ tag = 3#3 ∨ tag = 4#3 ∨ tag = 5#3 ∨ tag = 6#3 ∨ tag = 7#3 := by
    revert tag
    decide
  rcases htag with rfl | rfl | rfl | rfl | rfl | rfl | rfl | rfl <;> simp [decodeAccess]

/-! ## The obligations -/

/-- Settles O1: format by format; the match with bit 4 set or not is a byte of its row, and the data lines keep a written
value. -/
theorem everyInstructionDecodesBack : Obligations.EveryInstructionDecodesBack := by
  unfold Obligations.EveryInstructionDecodesBack
  intro i
  cases i with
  | nop x => exact congrArg Command.toDecoded ((decodeCommand_eq_nop_iff _ x).mpr ((commandFields_iff _ _ x rfl).mpr rfl))
  | start m => exact congrArg Command.toDecoded ((decodeCommand_eq_start_iff _ m).mpr ((commandFields_iff _ _ m rfl).mpr rfl))
  | clear x => exact congrArg Command.toDecoded ((decodeCommand_eq_clear_iff _ x).mpr ((commandFields_iff _ _ x rfl).mpr rfl))
  | wrcmd | wrstatus | wrlen => simp [encode, decode, decodeAccess]
  | rest | check | init | cnt | bzero | bcopy | bmark | blen | wload | wexp | seed | round | accum | next | final | reserved15
  | rdcmd | rdstatus | rdlen | rddigest | wrdigest => rfl

/-- Settles O2: format by format; a host access by its tag, whose written register keeps the low data lines. -/
theorem everyAcceptedWordEncodesBack : Obligations.EveryAcceptedWordEncodesBack := by
  unfold Obligations.EveryAcceptedWordEncodesBack
  intro w i h
  cases w with
  | cmd c => exact encode_of_decodeCommand c i h
  | phase p =>
    injection h with h
    exact h ▸ encode_decodePhase p
  | hacc tag data =>
    injection h with h
    rcases decodeAccess_cases tag data with ⟨rfl, e⟩ | ⟨rfl, e⟩ | ⟨rfl, e⟩ | ⟨rfl, e⟩ | ⟨rfl, e⟩ | ⟨rfl, e⟩ | ⟨rfl, e⟩ |
      ⟨rfl, e⟩ <;> rw [← h, e]
    all_goals exact ⟨_, rfl, by simp⟩

/-- Settles O50: busy, the invariant clears the result flags; at REST it keeps DONE and ERR apart and ERRCODE with ERR. -/
theorem statusCombinationsShown : Obligations.StatusCombinationsShown := by
  unfold Obligations.StatusCombinationsShown
  intro s hinv
  refine ⟨?_, s.status_reserved6, s.status_reserved12⟩
  rw [s.status_bit0, s.status_bit1, s.status_bit2, s.status_errcode, s.status_phase]
  by_cases hp : s.PHASE = 0#4
  · have hcode : 1 ≤ s.ERRCODE.toNat ↔ s.ERRCODE ≠ 0#2 := by bv_omega
    refine .inr ⟨by simp [Machine.State.busy, hp], hp, fun ⟨hdone, herr⟩ => ?_, hinv.errcode_iff.trans hcode.symm⟩
    obtain ⟨-, hnoerr⟩ := hinv.done_at_rest hdone
    simp [hnoerr] at herr
  · obtain ⟨hdone, herr, hcode⟩ := hinv.result_clear_of_busy hp
    exact .inl ⟨s.busy_iff.mpr hp, hdone, herr, hcode, by bv_omega, hinv.phase_legal⟩

/-- Settles O3: the rows by their masks; which bytes lie in no row is a finite check of the 256. -/
theorem commandMapByMaskAndMatch : Obligations.CommandMapByMaskAndMatch := by
  unfold Obligations.CommandMapByMaskAndMatch
  refine ⟨fun c => by simp [decodeCommand_eq_nop_iff], decodeCommand_eq_start_iff, fun c => by simp [decodeCommand_eq_clear_iff],
    fun c => ?_, fun c => ?_⟩
  · rw [ne_eq, decodeCommand_eq_illegal_iff, not_not]
    revert c
    decide
  · rw [decodeCommand_eq_illegal_iff]
    revert c
    decide

/-- Settles O4: ten closed words, evaluated. -/
theorem wordsOfTheTablesDecode : Obligations.WordsOfTheTablesDecode := by
  unfold Obligations.WordsOfTheTablesDecode
  decide

end Sys2Proof

/-! # Proofs about the word functions (40_functions.md) -/

namespace Sys2Proof.Machine

/-! ## Word arithmetic (R100, R101, R104, R105) -/

theorem add32_toNat (x y : Word) : (add32 x y).toNat = (x.toNat + y.toNat) % 2 ^ 32 :=
  BitVec.toNat_add x y

/-- The right shift supplies the bits below 32 - n, the left shift the n bits that wrap around. -/
theorem rotr_getLsbD (x : Word) {n i : Nat} (hn : n ≤ 31) (hi : i < 32) :
    (rotr x n).getLsbD i = x.getLsbD ((i + n) % 32) := by
  rw [rotr, BitVec.getLsbD_or, BitVec.getLsbD_ushiftRight, BitVec.getLsbD_shiftLeft]
  by_cases hlow : i < 32 - n
  · have hmod : (i + n) % 32 = n + i := by omega
    simp [hlow, hmod]
  · have hmod : (i + n) % 32 = i - (32 - n) := by omega
    have hout : x.getLsbD (n + i) = false := BitVec.getLsbD_of_ge x (n + i) (by omega)
    simp [hlow, hi, hmod, hout]

theorem Ch_getLsbD (x y z : Word) {i : Nat} (hi : i < 32) :
    (Ch x y z).getLsbD i = if x.getLsbD i then y.getLsbD i else z.getLsbD i := by
  rw [Ch, BitVec.getLsbD_xor, BitVec.getLsbD_and, BitVec.getLsbD_and, BitVec.getLsbD_not]
  cases x.getLsbD i <;> simp [hi]

theorem Maj_getLsbD (x y z : Word) (i : Nat) :
    (Maj x y z).getLsbD i =
      decide (2 ≤ (x.getLsbD i).toNat + (y.getLsbD i).toNat + (z.getLsbD i).toNat) := by
  rw [Maj, BitVec.getLsbD_xor, BitVec.getLsbD_xor, BitVec.getLsbD_and, BitVec.getLsbD_and, BitVec.getLsbD_and]
  cases x.getLsbD i <;> cases y.getLsbD i <;> cases z.getLsbD i <;> rfl

/-! ## Bytes and words, big-endian (R110, R111, R112) -/

/-- Appending a byte makes it the last digit in base 256. -/
theorem append_byte_toNat {w : Nat} (x : BitVec w) (b : Byte) : (x ++ b).toNat = x.toNat * 2 ^ 8 + b.toNat := by
  rw [BitVec.toNat_append, ← Nat.shiftLeft_add_eq_or_of_lt b.isLt, Nat.shiftLeft_eq]

theorem be32_toNat (b0 b1 b2 b3 : Byte) :
    (be32 b0 b1 b2 b3).toNat = b0.toNat * 2 ^ 24 + b1.toNat * 2 ^ 16 + b2.toNat * 2 ^ 8 + b3.toNat := by
  rw [be32, append_byte_toNat, append_byte_toNat, append_byte_toNat]
  ring

theorem byteOf_toNat (w : Word) (k : Nat) : (byteOf w k).toNat = w.toNat / 2 ^ (24 - 8 * k) % 256 := by
  rw [byteOf, BitVec.extractLsb'_toNat, Nat.shiftRight_eq_div_pow]

theorem be64_toNat (L : BitVec 64) (k : Nat) : (be64 L k).toNat = L.toNat / 2 ^ (56 - 8 * k) % 256 := by
  rw [be64, BitVec.extractLsb'_toNat, Nat.shiftRight_eq_div_pow]

/-- A number below 2^32 is the sum of its four digits in base 256. -/
theorem be32_byteOf (w : Word) : be32 (byteOf w 0) (byteOf w 1) (byteOf w 2) (byteOf w 3) = w := by
  apply BitVec.eq_of_toNat_eq
  rw [be32_toNat, byteOf_toNat, byteOf_toNat, byteOf_toNat, byteOf_toNat]
  have hw : w.toNat < 2 ^ 32 := w.isLt
  omega

/-! ## The obligations -/

/-- Settles O39: bit i comes from the right shift below 32 - n and from the left shift from there on. -/
theorem rotrMovesEachBit : Obligations.RotrMovesEachBit := by
  unfold Obligations.RotrMovesEachBit
  exact fun x n _ hn i => rotr_getLsbD x hn i.isLt

/-- Settles O40: one lemma per function, by the values of the three bits at i. -/
theorem wordFunctionsBitByBit : Obligations.WordFunctionsBitByBit := by
  unfold Obligations.WordFunctionsBitByBit
  exact ⟨add32_toNat, fun x y z i => Ch_getLsbD x y z i.isLt, fun x y z i => Maj_getLsbD x y z i.val⟩

/-- Settles O41: by the values of the functions; the bytes of a word are its digits in base 256. -/
theorem bytesOfAWordMakeTheWord : Obligations.BytesOfAWordMakeTheWord := by
  unfold Obligations.BytesOfAWordMakeTheWord
  exact ⟨be32_byteOf, be32_toNat, fun L k => be64_toNat L k.val⟩

end Sys2Proof.Machine

/-! # Proofs about PAD, the padding unit and block counter (41_padding_block_counter.md) -/

namespace Sys2Proof.Machine

/-! ## Frames of the micro-operations -/

section
variable {s t u : State} {ws ws' : List Reg} {i : Instr}

theorem Reg.same_trans (r : Reg) (h : r.same s t) (h' : r.same t u) : r.same s u := by
  cases r <;> exact Eq.trans h' h

theorem Frame.trans (h : Frame ws s t) (h' : Frame ws t u) : Frame ws s u := by
  obtain ⟨⟨hreg, hmsg, hturns⟩, hread, hfresh⟩ := h
  obtain ⟨⟨hreg', hmsg', hturns'⟩, hread', hfresh'⟩ := h'
  exact ⟨⟨fun r hr => r.same_trans (hreg r hr) (hreg' r hr), fun a => (hmsg' a).trans (hmsg a), hturns'.trans hturns⟩,
    hread'.trans hread, hfresh'.trans hfresh⟩

theorem Frame.mono (h : Frame ws s t) (hsub : ws ⊆ ws') : Frame ws' s t := by
  obtain ⟨⟨hreg, hmsg, hturns⟩, hhost⟩ := h
  exact ⟨⟨fun r hr => hreg r fun hmem => hr (hsub hmem), hmsg, hturns⟩, hhost⟩

theorem Frame.same (h : Frame ws s t) (r : Reg) (hr : r ∉ ws) : r.same s t :=
  h.1.1 r hr

theorem Frame.read (h : Frame ws s t) (a : Nat) : t.msg.read a = s.msg.read a :=
  h.1.2.1 a

theorem Frame.turns (h : Frame ws s t) : t.turns = s.turns :=
  h.1.2.2

theorem State.goto_frame (s : State) (p : BitVec 4) : Frame [.PHASE] s (s.goto p) :=
  ⟨⟨(writesOnly_iff _ _ _).mpr (by simp), fun _ => rfl, rfl⟩, rfl, rfl⟩

/-- Only host reads, and ROUND beyond the tables (log 7), touch what the host was told or draw a free value. -/
theorem exec_keeps_hostSide (hphase : (encode i).format = .phase) (hround : i ≠ .round) (h : exec i s = .next t) :
    t.lastRead = s.lastRead ∧ t.fresh = s.fresh := by
  cases i <;> simp only [exec] at h
  case round => exact absurd rfl hround
  case check => rcases execCheck_cases _ _ h with ⟨-, rfl⟩ | ⟨-, -, -, rfl⟩ | ⟨-, -, rfl⟩ <;> exact ⟨rfl, rfl⟩
  case bcopy => rcases execBcopy_cases _ _ h with ⟨-, rfl⟩ | ⟨_, -, rfl⟩ <;> exact ⟨rfl, rfl⟩
  case bmark => rcases execBmark_cases _ _ h with ⟨-, -, rfl⟩ | ⟨-, rfl⟩ <;> exact ⟨rfl, rfl⟩
  case blen => rcases execBlen_cases _ _ h with ⟨-, rfl⟩ | ⟨-, rfl⟩ <;> exact ⟨rfl, rfl⟩
  case next => rcases execNext_cases _ _ h with ⟨-, rfl⟩ | ⟨-, rfl⟩ <;> exact ⟨rfl, rfl⟩
  case nop | start | clear | rdcmd | rdstatus | rdlen | rddigest | wrcmd | wrstatus | wrlen | wrdigest => cases hphase
  all_goals injection h with h; subst h; exact ⟨rfl, rfl⟩

/-- A micro-operation changes only the registers of its entry in the table of 10_state.md R20. -/
theorem exec_frame (hphase : (encode i).format = .phase) (hround : i ≠ .round) (hcheck : i ≠ .check)
    (h : exec i s = .next t) : Frame (mayWrite i) s t := by
  obtain ⟨hmsg, hturns⟩ := exec_keeps_outside i s t h
  exact ⟨⟨exec_writesOnly i s t hcheck h, fun a => by rw [hmsg], hturns⟩, exec_keeps_hostSide hphase hround h⟩

end

/-! ## The block count (R120, R127) -/

theorem blockCount_eq_ceil (len : Nat) : 64 * (blockCount len - 1) < len + 9 ∧ len + 9 ≤ 64 * blockCount len := by
  unfold blockCount
  split <;> omega

/-- Settles O23: the count is the model's `blockCount`. -/
theorem cntCountsTheBlocks : Obligations.CntCountsTheBlocks := by
  unfold Obligations.CntCountsTheBlocks
  exact ⟨rfl, fun s hlen =>
    ⟨_, rfl, cnt_toNat s hlen, rfl, rfl, rfl, rfl, exec_frame (i := .cnt) rfl (by decide) (by decide) rfl⟩⟩

/-- Settles O24: `blockCount` is the ceiling of (LEN + 9) / 64, and LEN < 2^61 bounds it. -/
theorem blockCountIsTheCeiling : Obligations.BlockCountIsTheCeiling := by
  unfold Obligations.BlockCountIsTheCeiling
  intro s hlen
  obtain ⟨hlower, hupper⟩ := blockCount_eq_ceil s.LEN.toNat
  refine ⟨_, rfl, ?_⟩
  rw [State.goto_N, cnt_toNat s hlen]
  omega

/-! ## One micro-operation at a time (R121 to R125) -/

/-- Settles O25: every byte of the new file is zero. -/
theorem bzeroZeroesTheBlock : Obligations.BzeroZeroesTheBlock := by
  unfold Obligations.BzeroZeroesTheBlock
  exact ⟨rfl, fun s =>
    ⟨_, rfl, fun k => getElem_tabulate _ _ k.isLt, rfl, exec_frame (i := .bzero) rfl (by decide) (by decide) rfl⟩⟩

/-- Settles O26: every read is answered, so BCOPY takes its step, with as many bytes as it asked for. -/
theorem bcopyCopiesTheNextBytes : Obligations.BcopyCopiesTheNextBytes := by
  unfold Obligations.BcopyCopiesTheNextBytes
  refine ⟨rfl, fun s hlen hoff hanswered => ?_⟩
  obtain ⟨t, ht⟩ := exec_answers .bcopy s
  have hwrap : s.OFF.toNat + 0 + copyCount s ≤ 2 ^ 61 := by unfold copyCount; omega
  rcases execBcopy_cases s t ht with ⟨hnone, -⟩ | ⟨bytes, hsome, rfl⟩
  · obtain ⟨k, hk, hunanswered⟩ := (readFrom_none_iff _ _ _ _ hwrap).mp hnone
    obtain ⟨b, hb⟩ := hanswered k hk
    simp [hb] at hunanswered
  · obtain ⟨hbytes, hread⟩ := readFrom_some _ _ _ _ _ hsome hwrap
    refine ⟨_, ht, fun k hk => ?_, fun k hk => ?_, ?_, ?_, rfl, exec_frame rfl (by decide) (by decide) ht⟩
    · have hread : s.msg.read (s.OFF.toNat + k.val) = bytes[k.val]? := hread k.val hk
      have hk : k.val < bytes.length := hbytes.symm ▸ hk
      simp [hread, hk]
    · have hk : bytes.length ≤ k.val := hbytes.symm ▸ hk
      simp [hk]
    · simp [copyCount]
      omega
    · simp [copyCount]

/-- Settles O28: the two clauses are the two branches of BMARK. -/
theorem bmarkWritesTheMarkerOnce : Obligations.BmarkWritesTheMarkerOnce := by
  unfold Obligations.BmarkWritesTheMarkerOnce
  refine ⟨rfl, fun s hmark hfree => ?_, fun s hfull => ?_⟩
  · have hstep : exec .bmark s = .next _ := if_pos ⟨hmark, hfree⟩
    exact ⟨_, hstep, fun k => getElem_tabulate _ _ k.isLt, rfl, rfl, exec_frame rfl (by decide) (by decide) hstep⟩
  · have hno : ¬(s.MARKED = false ∧ s.NCOPY.toNat < 64) := by rintro ⟨hmark, hfree⟩; simp [hmark] at hfull; omega
    exact ⟨_, if_neg hno, rfl, s.goto_frame _⟩

theorem bitLength_eq (s : State) : bitLength s = BitVec.ofNat 64 (s.LEN.toNat * 8) := by
  apply BitVec.eq_of_toNat_eq
  simp [bitLength, Nat.shiftLeft_eq]

/-- The eight bytes of a bit length that fits 64 bits are its digits in base 256. -/
theorem be64_bitLength_toNat (len k : Nat) (hlen : len < 2 ^ 61) :
    (be64 (BitVec.ofNat 64 (len * 8)) k).toNat = len * 8 / 2 ^ (56 - 8 * k) % 256 := by
  rw [be64_toNat, BitVec.toNat_ofNat, Nat.mod_eq_of_lt (show len * 8 < 2 ^ 64 by omega)]

/-- Settles O29: the two clauses are the two branches of BLEN. -/
theorem blenWritesTheLengthInTheFinalBlock : Obligations.BlenWritesTheLengthInTheFinalBlock := by
  unfold Obligations.BlenWritesTheLengthInTheFinalBlock
  refine ⟨rfl, fun s hlen hlast => ?_, fun s hmore => ⟨_, if_neg hmore, rfl, s.goto_frame _⟩⟩
  have hstep : exec .blen s = .next _ := if_pos hlast
  refine ⟨_, hstep, fun k => ?_, fun k => ?_, rfl, exec_frame rfl (by decide) (by decide) hstep⟩
  · simpa [bitLength_eq] using be64_bitLength_toNat s.LEN.toNat k.val hlen
  · have hk : ¬56 ≤ k.val := by omega
    simp [hk]

/-- Settles O30: the two clauses are the two branches of NEXT. -/
theorem nextAdvancesTheBlockIndex : Obligations.NextAdvancesTheBlockIndex := by
  unfold Obligations.NextAdvancesTheBlockIndex
  refine ⟨rfl, fun s hlast => ⟨_, if_pos hlast, rfl, s.goto_frame _⟩, fun s hmore => ?_⟩
  have hstep : exec .next s = .next _ := if_neg hmore
  exact ⟨_, hstep, rfl, rfl, exec_frame rfl (by decide) (by decide) hstep⟩

/-! ## The four steps of a block (R130) -/

/-- Byte `k` of block `i` after BCOPY: the message byte of that place, zero beyond the message. -/
def copiedByte (msg : List Byte) (i k : Nat) : Byte := msg.getD (64 * (i - 1) + k) 0x00#8

/-- Byte `k` of block `i` after BMARK: the marker follows the last message byte. -/
def markedByte (msg : List Byte) (i k : Nat) : Byte :=
  if 64 * (i - 1) + k = msg.length then 0x80#8 else copiedByte msg i k

/-- BLEN's eight bytes lie behind the marker, so the last step overwrites zeros only. -/
theorem blockByte_eq (msg : List Byte) (i k : Nat) :
    blockByte msg i k =
      if i = blockCount msg.length ∧ 56 ≤ k then be64 (BitVec.ofNat 64 (msg.length * 8)) (k - 56) else markedByte msg i k := by
  obtain ⟨-, hroom⟩ := blockCount_eq_ceil msg.length
  unfold blockByte markedByte copiedByte
  by_cases hfinal : i = blockCount msg.length ∧ 56 ≤ k
  · have hbehind : msg.length < 64 * (i - 1) + k := by omega
    rw [if_pos hfinal, if_neg hbehind.not_gt, if_neg hbehind.ne', if_pos hfinal]
  · rcases Nat.lt_trichotomy (64 * (i - 1) + k) msg.length with hlt | heq | hgt
    · simp [hfinal, hlt, hlt.ne]
    · simp [hfinal, heq]
    · simp [hfinal, hgt.ne', hgt.not_gt]

/-- The PAD steps taken from `s` have led to `t`: PHASE is `p`, and B holds the bytes `f`. -/
structure PadProgress (s : State) (p : BitVec 4) (f : Nat → Byte) (t : State) : Prop where
  inv : Inv t
  phase : t.PHASE = p
  bytes : ∀ k : Fin 64, t.B[k.val] = f k.val
  frame : Frame [.B, .OFF, .NCOPY, .MARKED, .PHASE] s t

section
variable {s t u : State} {p q : BitVec 4} {f g : Nat → Byte} {bytes : List Byte}

/-- The micro-operation that PHASE selects is the next PAD step. -/
theorem PadProgress.next (h : PadProgress s p f t) (hturns : s.turns = [])
    (hp : p = 4#4 ∨ p = 5#4 ∨ p = 6#4 ∨ p = 7#4) (he : exec (decodePhase p) t = .next u) (hq : u.PHASE = q)
    (hbytes : ∀ k : Fin 64, u.B[k.val] = g k.val) : step t = .next u ∧ PadProgress s q g u := by
  have hnil : t.turns = [] := h.frame.turns.trans hturns
  have hstep : step t = .next u := by
    rw [step_of_instr t (decodePhase p) (by rw [t.turn_of_nil hnil, turnInstr_sequencer, h.phase]), t.popTurn_of_nil hnil, he]
  have hframe : Frame [.B, .OFF, .NCOPY, .MARKED, .PHASE] t u := by
    rcases hp with rfl | rfl | rfl | rfl <;>
      exact (exec_frame rfl (by decide) (by decide) he).mono (by decide)
  exact ⟨hstep, step_keeps_inv h.inv hstep, hq, hbytes, h.frame.trans hframe⟩

theorem PadProgress.bzero (h : PadProgress s 4#4 f t) (hturns : s.turns = []) :
    ∃ u, step t = .next u ∧ PadProgress s 5#4 (fun _ => 0x00#8) u := by
  obtain ⟨u, he, hB, hq, -⟩ := bzeroZeroesTheBlock.2 t
  exact ⟨u, h.next hturns (by decide) he hq hB⟩

/-- BCOPY takes the bytes of its block and no others: none when the block lies beyond the message. -/
theorem PadProgress.bcopy (h : PadProgress s 5#4 (fun _ => 0x00#8) t) (hturns : s.turns = [])
    (hlen : s.LEN.toNat = bytes.length) (hanswers : Answers s.msg bytes) :
    ∃ u, step t = .next u ∧ PadProgress s 6#4 (copiedByte bytes s.I.toNat) u := by
  have hI : t.I = s.I := h.frame.same .I (by decide)
  have hLEN : t.LEN = s.LEN := h.frame.same .LEN (by decide)
  have htlen : t.LEN.toNat = bytes.length := by rw [hLEN, hlen]
  have hread : ∀ (a : Nat) (ha : a < bytes.length), t.msg.read a = some bytes[a] := fun a ha =>
    (h.frame.read a).trans (hanswers a _ (List.getElem?_eq_getElem ha))
  obtain ⟨hbound, -⟩ := h.inv.preconditions (by simp [h.phase])
  have hoff := h.inv.consumed_before (by simp [h.phase]) (by simp [h.phase])
  rw [hI] at hoff
  obtain ⟨u, he, hcopied, hkept, -, -, hq, -⟩ := bcopyCopiesTheNextBytes.2 t (by omega) (by omega)
    fun k hk => ⟨_, hread _ (by omega)⟩
  refine ⟨u, h.next hturns (by decide) he hq fun k => ?_⟩
  rw [htlen] at hcopied hkept
  by_cases hk : k.val < min (bytes.length - t.OFF.toNat) 64
  · have hplace : t.OFF.toNat + k.val = 64 * (s.I.toNat - 1) + k.val := by omega
    have hbyte := hcopied k hk
    rw [hread _ (by omega), Option.some.injEq] at hbyte
    simp [copiedByte, ← hbyte, ← hplace, show t.OFF.toNat + k.val < bytes.length by omega]
  · have hbeyond : bytes.length ≤ 64 * (s.I.toNat - 1) + k.val := by omega
    rw [hkept k (by omega), h.bytes k]
    simp [copiedByte, hbeyond]

/-- The marker's place is in this block exactly when the marker is still to be written and a byte is free (R123, R128). -/
theorem PadProgress.bmark (h : PadProgress s 6#4 (copiedByte bytes s.I.toNat) t) (hturns : s.turns = [])
    (hlen : s.LEN.toNat = bytes.length) :
    ∃ u, step t = .next u ∧ PadProgress s 7#4 (markedByte bytes s.I.toNat) u := by
  have hI : t.I = s.I := h.frame.same .I (by decide)
  have hLEN : t.LEN = s.LEN := h.frame.same .LEN (by decide)
  obtain ⟨-, hfirst, -⟩ := h.inv.block_index (by simp [h.phase])
  have hoff := h.inv.consumed_after (by simp [h.phase]) (by simp [h.phase])
  have hcopied := h.inv.copied (by simp [h.phase]) (by simp [h.phase])
  have hmarked := h.inv.marked_before (by simp [h.phase]) (by simp [h.phase])
  rw [hI, hLEN, hlen] at hoff hcopied hmarked
  rw [hI] at hfirst
  obtain ⟨u, he⟩ := exec_answers .bmark t
  refine ⟨u, ?_⟩
  rcases execBmark_cases t u he with ⟨hunmarked, hfree, rfl⟩ | ⟨hskip, rfl⟩
  · refine h.next hturns (by decide) he rfl fun k => ?_
    have hnotpast : ¬bytes.length / 64 + 1 < s.I.toNat := fun hpast => by simp [hmarked.mpr hpast] at hunmarked
    have hplace : k.val = t.NCOPY.toNat ↔ 64 * (s.I.toNat - 1) + k.val = bytes.length := by omega
    simp [markedByte, hplace, h.bytes k]
  · refine h.next hturns (by decide) he rfl fun k => ?_
    have helsewhere : 64 * (s.I.toNat - 1) + k.val ≠ bytes.length := by
      rw [hmarked] at hskip
      omega
    simp [markedByte, helsewhere, h.bytes k]

theorem PadProgress.blen (h : PadProgress s 7#4 (markedByte bytes s.I.toNat) t) (hturns : s.turns = [])
    (hlen : s.LEN.toNat = bytes.length) :
    ∃ u, step t = .next u ∧ PadProgress s 8#4 (blockByte bytes s.I.toNat) u := by
  have hI : t.I = s.I := h.frame.same .I (by decide)
  have hLEN : t.LEN = s.LEN := h.frame.same .LEN (by decide)
  obtain ⟨hN, -, -⟩ := h.inv.block_index (by simp [h.phase])
  have hfinal : t.I = t.N ↔ s.I.toNat = blockCount bytes.length := by
    rw [← BitVec.toNat_inj, hN, hI, hLEN, hlen]
  obtain ⟨u, he⟩ := exec_answers .blen t
  refine ⟨u, ?_⟩
  rcases execBlen_cases t u he with ⟨hlast, rfl⟩ | ⟨hmore, rfl⟩
  · refine h.next hturns (by decide) he rfl fun k => ?_
    simp [blockByte_eq, hfinal.mp hlast, bitLength_eq, hLEN, hlen, h.bytes k]
  · refine h.next hturns (by decide) he rfl fun k => ?_
    simp [blockByte_eq, mt hfinal.mpr hmore, h.bytes k]

end

/-- Settles O55: step by step; what B holds after each step is named, and the invariant gives OFF, NCOPY and MARKED. -/
theorem fourPadStepsBuildTheBlock : Obligations.FourPadStepsBuildTheBlock := by
  unfold Obligations.FourPadStepsBuildTheBlock
  intro s bytes hinv hturns hphase hlen hanswers
  have hstart : PadProgress s 4#4 (fun k => s.B.toList.getD k 0x00#8) s :=
    ⟨hinv, hphase, fun k => by simp, ⟨⟨WritesOnly.refl _ s, fun _ => rfl, rfl⟩, rfl, rfl⟩⟩
  obtain ⟨t₁, hbzero, h₁⟩ := hstart.bzero hturns
  obtain ⟨t₂, hbcopy, h₂⟩ := h₁.bcopy hturns hlen hanswers
  obtain ⟨t₃, hbmark, h₃⟩ := h₂.bmark hturns hlen
  obtain ⟨t, hblen, h⟩ := h₃.blen hturns hlen
  have hI : t.I = s.I := h.frame.same .I (by decide)
  have hLEN : t.LEN = s.LEN := h.frame.same .LEN (by decide)
  have hoff := h.inv.consumed_after (by simp [h.phase]) (by simp [h.phase])
  exact ⟨t, by simp [runSteps, hbzero, hbcopy, hbmark, hblen], h.phase, h.bytes, by rw [hoff, hI, hLEN], h.frame⟩

/-! ## The padded message (R126) -/

/-- Byte `p` of the blocks laid end to end. -/
def paddedByte (msg : List Byte) (p : Nat) : Byte := blockByte msg (p / 64 + 1) (p % 64)

theorem flatMap_blocks (msg : List Byte) (n : Nat) :
    ((List.range n).flatMap fun j => block msg (j + 1)) = (List.range (64 * n)).map (paddedByte msg) := by
  induction n with
  | zero => rfl
  | succ n ih =>
    have hblock : block msg (n + 1) = (List.range 64).map fun k => paddedByte msg (64 * n + k) := by
      refine List.map_congr_left fun k hk => ?_
      have hk : k < 64 := List.mem_range.mp hk
      rw [paddedByte, show (64 * n + k) / 64 = n by omega, show (64 * n + k) % 64 = k by omega]
    rw [List.range_succ, List.flatMap_append, ih, List.flatMap_singleton, hblock, Nat.mul_succ, List.range_add, List.map_append,
      List.map_map]
    rfl

/-- The blocks' bytes by place: the message, the marker, and from the last eight places on the bit length. -/
theorem paddedByte_eq (msg : List Byte) {p : Nat} (hp : p < 64 * blockCount msg.length) :
    paddedByte msg p =
      if p < msg.length then msg.getD p 0x00#8
      else if p = msg.length then 0x80#8
      else if 64 * blockCount msg.length ≤ p + 8 then
        be64 (BitVec.ofNat 64 (msg.length * 8)) (p + 8 - 64 * blockCount msg.length)
      else 0x00#8 := by
  have hplace : 64 * (p / 64 + 1 - 1) + p % 64 = p := by omega
  have hlast : (p / 64 + 1 = blockCount msg.length ∧ 56 ≤ p % 64) ↔ 64 * blockCount msg.length ≤ p + 8 := by omega
  simp only [paddedByte, blockByte, hplace, hlast]
  split_ifs
  · rfl
  · rfl
  · congr 1; omega
  · rfl

section
variable {msg : List Byte} {z : Nat} (hcut : 64 * blockCount msg.length = msg.length + 1 + z + 8)
include hcut

theorem map_paddedByte_message : (List.range msg.length).map (paddedByte msg) = msg := by
  refine List.ext_getElem (by simp) fun p hp _ => ?_
  have hp : p < msg.length := by simpa using hp
  simp [paddedByte_eq, hp, show p < 64 * blockCount msg.length by omega]

theorem paddedByte_marker : paddedByte msg msg.length = 0x80#8 := by
  rw [paddedByte_eq _ (by omega), if_neg (Nat.lt_irrefl _), if_pos rfl]

theorem map_paddedByte_zeros :
    ((List.range z).map fun j => paddedByte msg (msg.length + 1 + j)) = List.replicate z 0x00#8 := by
  refine List.eq_replicate_iff.mpr ⟨by simp, fun b hb => ?_⟩
  obtain ⟨j, hj, rfl⟩ := List.mem_map.mp hb
  have hj : j < z := List.mem_range.mp hj
  rw [paddedByte_eq _ (by omega), if_neg (by omega), if_neg (by omega), if_neg (by omega)]

theorem map_paddedByte_bitLength (hlen : msg.length < 2 ^ 61) :
    ((List.range 8).map fun k => paddedByte msg (msg.length + 1 + z + k)) =
      (List.range 8).map fun k => BitVec.ofNat 8 (msg.length * 8 / 2 ^ (56 - 8 * k)) := by
  refine List.map_congr_left fun k hk => BitVec.eq_of_toNat_eq ?_
  have hk : k < 8 := List.mem_range.mp hk
  rw [paddedByte_eq _ (by omega), if_neg (by omega), if_neg (by omega), if_pos (by omega),
    show msg.length + 1 + z + k + 8 - 64 * blockCount msg.length = k by omega, be64_bitLength_toNat _ _ hlen,
    BitVec.toNat_ofNat]

end

/-- Settles O56: the places of the blocks cut at the message's end, behind the marker and before the last eight bytes. -/
theorem blocksTogetherAreThePaddedMessage : Obligations.BlocksTogetherAreThePaddedMessage := by
  unfold Obligations.BlocksTogetherAreThePaddedMessage
  intro bytes hlen
  obtain ⟨hlower, hupper⟩ := blockCount_eq_ceil bytes.length
  obtain ⟨z, hz⟩ := Nat.exists_eq_add_of_le hupper
  have hcut : 64 * blockCount bytes.length = bytes.length + 1 + z + 8 := by omega
  refine ⟨z, by omega, by omega, ?_⟩
  calc ((List.range (blockCount bytes.length)).flatMap fun j => block bytes (j + 1))
    _ = (List.range (bytes.length + 1 + z + 8)).map (paddedByte bytes) := by rw [flatMap_blocks, hcut]
    _ = (List.range bytes.length).map (paddedByte bytes) ++ [paddedByte bytes bytes.length] ++
          ((List.range z).map fun j => paddedByte bytes (bytes.length + 1 + j)) ++
          ((List.range 8).map fun k => paddedByte bytes (bytes.length + 1 + z + k)) := by
      simp only [List.range_add, List.map_append, List.map_map]
      rfl
    _ = _ := by
      rw [map_paddedByte_message hcut, paddedByte_marker hcut, map_paddedByte_zeros hcut, map_paddedByte_bitLength hcut hlen]

end Sys2Proof.Machine

/-! # Proofs about MSX, the schedule expander (42_schedule_expander.md) -/

namespace Sys2Proof.Machine

/-- Settles O31: the new file is given word by word, and `be32` is the word of its four bytes. -/
theorem wloadReadsBigEndianWords : Obligations.WloadReadsBigEndianWords := by
  unfold Obligations.WloadReadsBigEndianWords
  refine ⟨rfl, fun s => ⟨_, rfl, fun k => ?_, fun k hk => ?_, rfl, exec_frame (i := .wload) rfl (by decide) (by decide) rfl⟩⟩
  · simp [be32_toNat]
  · have hk : ¬k.val < 16 := by omega
    simp [hk]

/-- R101's formula is the library's rotation for every amount below the width. -/
theorem rotr_eq_rotateRight (x : Word) {n : Nat} (hn : n < 32) : rotr x n = x.rotateRight n := by
  rw [rotr, BitVec.rotateRight_def, Nat.mod_eq_of_lt hn]

theorem sig0_eq_rotateRight (x : Word) : sig0 x = x.rotateRight 7 ^^^ x.rotateRight 18 ^^^ (x >>> 3) := by
  rw [sig0, rotr_eq_rotateRight x (by decide), rotr_eq_rotateRight x (by decide), shr]

theorem sig1_eq_rotateRight (x : Word) : sig1 x = x.rotateRight 17 ^^^ x.rotateRight 19 ^^^ (x >>> 10) := by
  rw [sig1, rotr_eq_rotateRight x (by decide), rotr_eq_rotateRight x (by decide), shr]

/-- The word at `k + 16`, from the four words that the recurrence reads (R141). -/
theorem scheduleStep_add_sixteen (W : Vector Word 64) (k : Fin 48) :
    scheduleStep W (k.val + 16) = scheduleSum W[k.val + 14] W[k.val + 9] W[k.val + 1] W[k.val] := by
  rw [scheduleStep, wordAt_of_lt W _ (by omega), wordAt_of_lt W _ (by omega), wordAt_of_lt W _ (by omega),
    wordAt_of_lt W _ (by omega)]
  rfl

/-- Settles O32: the loop writes each word by the recurrence over its own result, and none below index 16. -/
theorem wexpFollowsTheRecurrence : Obligations.WexpFollowsTheRecurrence := by
  unfold Obligations.WexpFollowsTheRecurrence
  refine ⟨rfl, fun s => ⟨_, rfl, fun k => ?_, fun k => ?_, rfl, exec_frame (i := .wexp) rfl (by decide) (by decide) rfl⟩⟩
  · have hnew : (expandFrom 48 16 s.W)[k.val + 16] = scheduleStep (expandFrom 48 16 s.W) (k.val + 16) :=
      expandFrom_inside 48 16 s.W (k.val + 16) (by omega) (by decide) (by omega) (by omega)
    rw [← sig0_eq_rotateRight, ← sig1_eq_rotateRight]
    exact hnew.trans (scheduleStep_add_sixteen _ k)
  · exact expandFrom_outside 48 16 s.W k.val (by omega) (.inl k.isLt)

end Sys2Proof.Machine

/-! # Proofs about CMP, the compression engine (43_compression.md) -/

namespace Sys2Proof.Machine

/-! ## One micro-operation at a time (R150 to R153) -/

/-- Settles O33: the file is IV. -/
theorem initLoadsTheInitialHashValue : Obligations.InitLoadsTheInitialHashValue := by
  unfold Obligations.InitLoadsTheInitialHashValue
  exact ⟨rfl, fun s => ⟨_, rfl, rfl, rfl, exec_frame (i := .init) rfl (by decide) (by decide) rfl⟩⟩

/-- Settles O34: the working variables are the whole hash state. -/
theorem seedCopiesTheHashState : Obligations.SeedCopiesTheHashState := by
  unfold Obligations.SeedCopiesTheHashState
  exact ⟨rfl, fun s => ⟨_, rfl, fun _ => rfl, rfl, rfl, exec_frame (i := .seed) rfl (by decide) (by decide) rfl⟩⟩

/-- Settles O37: each word of the new file is one `add32`. -/
theorem accumAddsWordByWord : Obligations.AccumAddsWordByWord := by
  unfold Obligations.AccumAddsWordByWord
  refine ⟨rfl, fun s => ⟨_, rfl, fun j => ?_, rfl, exec_frame (i := .accum) rfl (by decide) (by decide) rfl⟩⟩
  simp only [State.goto_H, getElem_tabulate, add32_toNat]

theorem Sig0_eq_rotateRight (x : Word) : Sig0 x = x.rotateRight 2 ^^^ x.rotateRight 13 ^^^ x.rotateRight 22 := by
  rw [Sig0, rotr_eq_rotateRight x (by decide), rotr_eq_rotateRight x (by decide), rotr_eq_rotateRight x (by decide)]

theorem Sig1_eq_rotateRight (x : Word) : Sig1 x = x.rotateRight 6 ^^^ x.rotateRight 11 ^^^ x.rotateRight 25 := by
  rw [Sig1, rotr_eq_rotateRight x (by decide), rotr_eq_rotateRight x (by decide), rotr_eq_rotateRight x (by decide)]

/-- ROUND keeps what every micro-operation keeps; only `fresh` depends on T (log 7). -/
theorem execRound_kept {s t : State} (h : execRound s = .next t) : Kept [.V, .T, .PHASE] s t := by
  obtain ⟨hmsg, hturns⟩ := exec_keeps_outside .round s t h
  exact ⟨exec_writesOnly .round s t (by decide) h, fun a => by rw [hmsg], hturns⟩

/-- ROUND inside the tables: the entries of K and W at T, T counts on without wrapping, and nothing is drawn. -/
theorem execRound_of_lt (s : State) (hT : s.T.toNat < 64) :
    ∃ t : State, exec .round s = .next t ∧ t.V = compressRound s.V K[s.T.toNat] s.W[s.T.toNat] ∧
      t.T.toNat = s.T.toNat + 1 ∧ t.PHASE = (if s.T.toNat = 63 then 12#4 else 11#4) ∧ Frame [.V, .T, .PHASE] s t := by
  have hlast : s.T = 63#7 ↔ s.T.toNat = 63 := BitVec.toNat_inj.symm
  refine ⟨_, rfl, ?_, ?_, ?_, execRound_kept rfl, rfl, if_pos hT⟩
  · simp only [State.goto_V, roundConstant, roundWord, dif_pos hT]
  · rw [State.goto_T, BitVec.toNat_add, Nat.mod_eq_of_lt] <;> simp; omega
  · simp only [State.goto_PHASE, hlast]

/-- Settles O35: T1 and T2 are those of `compressRound`, whose eight writes are read off one by one. -/
theorem roundTransformsTheWorkingVariables : Obligations.RoundTransformsTheWorkingVariables := by
  unfold Obligations.RoundTransformsTheWorkingVariables
  refine ⟨rfl, fun s hT => ?_⟩
  obtain ⟨t, he, hV, hnext, hphase, hframe⟩ := execRound_of_lt s hT
  refine ⟨t, roundT1 s.V[4] s.V[5] s.V[6] s.V[7] K[s.T.toNat] s.W[s.T.toNat], roundT2 s.V[0] s.V[1] s.V[2], he, ?_, ?_, ?_⟩
  · rw [← Sig1_eq_rotateRight]
    rfl
  · rw [← Sig0_eq_rotateRight]
    rfl
  · rw [hV, hphase]
    exact ⟨rfl, rfl, rfl, rfl, rfl, rfl, rfl, rfl, hnext, fun h => if_pos h, fun h => if_neg h, hframe⟩

/-- Settles O36: only V[0] and V[4] are made from the free words; T is not 63, so the next code is ROUND again. -/
theorem roundBeyondTheTablesStillRuns : Obligations.RoundBeyondTheTablesStillRuns := by
  unfold Obligations.RoundBeyondTheTablesStillRuns
  intro s hT
  have hnotlast : s.T ≠ 63#7 := by intro h; simp [h] at hT
  exact ⟨_, rfl, rfl, rfl, rfl, rfl, rfl, rfl, rfl, if_neg hnotlast, if_neg hT.not_gt, execRound_kept rfl⟩

/-! ## Runs of the sequencer -/

/-- With no other turn to come, a step is the micro-operation that PHASE selects. -/
theorem step_of_phase {s : State} {p : BitVec 4} (hturns : s.turns = []) (hphase : s.PHASE = p) :
    step s = exec (decodePhase p) s := by
  rw [step_of_instr s (decodePhase p) (by rw [s.turn_of_nil hturns, turnInstr_sequencer, hphase]), s.popTurn_of_nil hturns]

theorem runSteps_add {m : Nat} {s t : State} (n : Nat) (h : runSteps m s = .next t) : runSteps (m + n) s = runSteps n t := by
  induction m generalizing s with
  | zero =>
    injection h with h
    rw [h, Nat.zero_add]
  | succ m ih =>
    rw [Nat.succ_add, runSteps]
    rw [runSteps] at h
    cases hstep : step s with
    | next u =>
      rw [hstep] at h
      exact ih h
    | fault r => simp [hstep] at h
    | refused r => simp [hstep] at h

/-- One more step at the end of a run. -/
theorem runSteps_succ {m : Nat} {s t u : State} (h : runSteps m s = .next t) (hstep : step t = .next u) :
    runSteps (m + 1) s = .next u := by
  rw [runSteps_add 1 h]
  simp only [runSteps, hstep]

/-! ## The schedule of a block (R140, R141) -/

/-- WEXP's loop and the pure schedule take the same words in the same order: where the file begins with the words grown so
far, its new word is the one that the list grows by. -/
theorem expandFrom_toList (n : Nat) (W : Vector Word 64) (ws : List Word) (hn : ws.length + n = 64) (h16 : 16 ≤ ws.length)
    (hws : ∀ j (hj : j < ws.length), wordAt W j = ws[j]) : (expandFrom n ws.length W).toList = growSchedule n ws := by
  induction n generalizing W ws with
  | zero =>
    rw [expandFrom, growSchedule]
    refine List.ext_getElem (by simpa using hn.symm) fun j hj hj' => ?_
    rw [← hws j hj', wordAt_of_lt W j (by omega), Vector.getElem_toList]
  | succ n ih =>
    have hread : ∀ j, j < ws.length → ws.getD j 0#32 = wordAt W j := fun j hj => by simp [hws j hj, hj]
    rw [expandFrom, growSchedule, hread _ (by omega), hread _ (by omega), hread _ (by omega), hread _ (by omega),
      ← scheduleStep, ← ih _ _ (by simp; omega) (by simp; omega), List.length_append, List.length_singleton]
    intro j hj
    have hj : j ≤ ws.length := by simpa [Nat.lt_succ_iff] using hj
    rw [wordAt_of_lt _ j (by omega), getElem_tabulate, List.getElem_append]
    rcases hj.lt_or_eq with hold | rfl
    · simp [hold, hold.ne, ← hws j hold, wordAt_of_lt W j (by omega)]
    · simp

/-- After WLOAD the file begins with the sixteen words of the block. -/
theorem execWload_words {s t : State} (h : execWload s = .next t) {j : Nat} (hj : j < (blockWords s.B.toList).length) :
    wordAt t.W j = (blockWords s.B.toList)[j] := by
  injection h with h
  subst h
  have hj : j < 16 := by simpa [blockWords] using hj
  rw [wordAt_of_lt _ j (by omega), State.goto_W, getElem_tabulate, dif_pos hj]
  simp [blockWords, show 4 * j + 3 < 64 by omega, show 4 * j + 2 < 64 by omega, show 4 * j + 1 < 64 by omega,
    show 4 * j < 64 by omega]

/-- WLOAD and WEXP make the schedule of the block. -/
theorem runSteps_schedule {s : State} (hturns : s.turns = []) (hphase : s.PHASE = 8#4) :
    ∃ t : State, runSteps 2 s = .next t ∧ t.W.toList = growSchedule 48 (blockWords s.B.toList) ∧ t.PHASE = 10#4 ∧
      Frame [.W, .PHASE] s t := by
  obtain ⟨-, hwload⟩ := wloadReadsBigEndianWords
  obtain ⟨u, hload, -, -, hu, hloaded⟩ := hwload s
  have hexpand : exec .wexp u = .next _ := rfl
  have hstep : step s = .next u := (step_of_phase hturns hphase).trans hload
  have hstep' : step u = .next _ := (step_of_phase (hloaded.turns.trans hturns) hu).trans hexpand
  have hlen : (blockWords s.B.toList).length = 16 := by simp [blockWords]
  have hwords := expandFrom_toList 48 u.W (blockWords s.B.toList) (by omega) (by omega) fun _ => execWload_words hload
  rw [hlen] at hwords
  have hexpanded : Frame [.W, .PHASE] u _ := exec_frame rfl (by decide) (by decide) hexpand
  exact ⟨_, by simp only [runSteps, hstep, hstep'], hwords, rfl, hloaded.trans hexpanded⟩

/-! ## The sixty-four rounds (R152) -/

theorem Working.ofVector_compressRound (V : Vector Word 8) (k w : Word) :
    Working.ofVector (compressRound V k w) = (Working.ofVector V).round k w :=
  rfl

/-- The working variables after `n` rounds of `compress` with the schedule `W`. -/
def roundsFrom (x : Working) (W : Vector Word 64) (n : Nat) : Working :=
  ((List.zip K.toList W.toList).take n).foldl (fun x kw => x.round kw.1 kw.2) x

theorem roundsFrom_succ (x : Working) (W : Vector Word 64) (n : Nat) (hn : n < 64) :
    roundsFrom x W (n + 1) = (roundsFrom x W n).round K[n] W[n] := by
  rw [roundsFrom, List.take_succ_eq_append_getElem (by simpa using hn), List.foldl_append]
  simp [roundsFrom]

/-- From T = 0, `n` rounds are the first `n` rounds of `compress`. -/
theorem runSteps_rounds {s : State} (hturns : s.turns = []) (hphase : s.PHASE = 11#4) (hT : s.T = 0#7) (n : Nat) (hn : n ≤ 64) :
    ∃ t : State, runSteps n s = .next t ∧ Working.ofVector t.V = roundsFrom (Working.ofVector s.V) s.W n ∧ t.T.toNat = n ∧
      t.PHASE = (if n = 64 then 12#4 else 11#4) ∧ Frame [.V, .T, .PHASE] s t := by
  induction n with
  | zero =>
    exact ⟨s, rfl, rfl, by rw [hT]; rfl, hphase, ⟨WritesOnly.refl _ s, fun _ => rfl, rfl⟩, rfl, rfl⟩
  | succ n ih =>
    obtain ⟨u, hrun, hV, hTn, hp, hframe⟩ := ih (by omega)
    have hW : u.W = s.W := hframe.same .W (by decide)
    obtain ⟨t, he, hV', hT', hp', hframe'⟩ := execRound_of_lt u (by omega)
    have hround : u.PHASE = 11#4 := by rw [hp, if_neg (by omega)]
    have hstep : step u = .next t := (step_of_phase (hframe.turns.trans hturns) hround).trans he
    refine ⟨t, runSteps_succ hrun hstep, ?_, ?_, ?_, hframe.trans hframe'⟩
    · rw [hV', Working.ofVector_compressRound, hV, roundsFrom_succ _ _ _ (by omega)]
      simp only [hTn, hW]
    · rw [hT', hTn]
    · simp only [hp', hTn, Nat.reduceEqDiff]

/-! ## One block (R155) -/

/-- ACCUM on the words by name. -/
theorem execAccum_add (s : State) :
    ∃ t : State, exec .accum s = .next t ∧ Working.ofVector t.H = (Working.ofVector s.H).add (Working.ofVector s.V) ∧
      t.PHASE = 13#4 ∧ Frame [.H, .PHASE] s t := by
  refine ⟨_, rfl, ?_, rfl, exec_frame (i := .accum) rfl (by decide) (by decide) rfl⟩
  simp [Working.ofVector, Working.add]

theorem compress_eq (Hin : Working) (bs : List Byte) (W : Vector Word 64)
    (hW : W.toList = growSchedule 48 (blockWords bs)) : compress Hin bs = Hin.add (roundsFrom Hin W 64) := by
  rw [compress, roundsFrom, List.take_of_length_le (by simp), hW]

/-- Settles O57: the schedule, the copy of H, the rounds by induction on their number, and the sum, one after the other. -/
theorem oneBlockIsCompressed : Obligations.OneBlockIsCompressed := by
  unfold Obligations.OneBlockIsCompressed
  intro s hturns hphase
  obtain ⟨t₁, hschedule, hW₁, hp₁, hframe₁⟩ := runSteps_schedule hturns hphase
  obtain ⟨-, hseed⟩ := seedCopiesTheHashState
  obtain ⟨t₂, hseed, hV₂, hT₂, hp₂, hframe₂⟩ := hseed t₁
  have hturns₁ : t₁.turns = [] := hframe₁.turns.trans hturns
  have hturns₂ : t₂.turns = [] := hframe₂.turns.trans hturns₁
  obtain ⟨t₃, hrounds, hV₃, -, hp₃, hframe₃⟩ := runSteps_rounds hturns₂ hp₂ hT₂ 64 (le_refl 64)
  obtain ⟨t, haccum, hsum, hp, hframe⟩ := execAccum_add t₃
  have hrun₂ : runSteps 3 s = .next t₂ := runSteps_succ hschedule ((step_of_phase hturns₁ hp₁).trans hseed)
  have hrun₃ : runSteps 67 s = .next t₃ := (runSteps_add 64 hrun₂).trans hrounds
  have hturns₃ : t₃.turns = [] := hframe₃.turns.trans hturns₂
  refine ⟨t, runSteps_succ hrun₃ ((step_of_phase hturns₃ hp₃).trans haccum), hp, ?_, ?_⟩
  · have hH₁ : t₁.H = s.H := hframe₁.same .H (by decide)
    have hH₂ : t₂.H = t₁.H := hframe₂.same .H (by decide)
    have hH₃ : t₃.H = t₂.H := hframe₃.same .H (by decide)
    have hW₂ : t₂.W = t₁.W := hframe₂.same .W (by decide)
    have hV : t₂.V = t₁.H := Vector.ext fun j hj => hV₂ ⟨j, hj⟩
    rw [hsum, hV₃, hV, hW₂, hH₃, hH₂, hH₁, compress_eq _ _ _ hW₁]
  · exact (hframe₁.mono (by decide)).trans <| (hframe₂.mono (by decide)).trans <|
      (hframe₃.mono (by decide)).trans (hframe.mono (by decide))

end Sys2Proof.Machine

/-! # Proofs about FIN, the digest finalizer (44_finalizer.md) -/

namespace Sys2Proof.Machine

/-! ## FINAL (R170) -/

/-- Settles O38: byte 4j + k of the new file is byte k of H[j], the digit k from the top. -/
theorem finalWritesTheDigestBytes : Obligations.FinalWritesTheDigestBytes := by
  unfold Obligations.FinalWritesTheDigestBytes
  refine ⟨rfl, fun s => ⟨_, rfl, fun j k => ?_, rfl, rfl, exec_frame (i := .final) rfl (by decide) (by decide) rfl⟩⟩
  have hword : (4 * j.val + k.val) / 4 = j.val := by omega
  have hbyte : (4 * j.val + k.val) % 4 = k.val := by omega
  simp only [State.goto_D, getElem_tabulate, byteOf_toNat, hword, hbyte]

/-! ## Two runs on the same inputs (R172) -/

/-- WEXP's new words depend on the first sixteen only (R141): both files grow by the same list. -/
theorem expandFrom_congr (W W' : Vector Word 64) (h : ∀ j < 16, wordAt W' j = wordAt W j) :
    expandFrom 48 16 W' = expandFrom 48 16 W := by
  have hlist := expandFrom_toList 48 W ((List.range 16).map (wordAt W)) (by simp) (by simp) (by simp)
  have hlist' := expandFrom_toList 48 W' ((List.range 16).map (wordAt W)) (by simp) (by simp) (by simpa using h)
  exact Vector.toList_inj.mp (by simpa using hlist'.trans hlist.symm)

/-- BCOPY's row of reads lies below LEN, whatever OFF holds: behind LEN it reads nothing (R122). -/
theorem bcopy_reads_congr (s : State) (m : Memory) (hlen : s.LEN.toNat < 2 ^ 61)
    (hm : ∀ a < s.LEN.toNat, s.msg.read a = m.read a) :
    readFrom s.msg s.OFF 0 (copyCount s) = readFrom m s.OFF 0 (copyCount s) := by
  have hcount : copyCount s ≤ s.LEN.toNat - s.OFF.toNat := Nat.min_le_left _ _
  exact readFrom_congr _ _ _ _ _ (by omega) fun j hj => hm _ (by omega)

/-- Past CHECK and CNT: what a run carries from block to block agrees, and the length has passed CHECK. -/
structure SameProgress (s u : State) : Prop where
  length : s.LEN.toNat < 2 ^ 61
  H : u.H = s.H
  N : u.N = s.N
  I : u.I = s.I
  OFF : u.OFF = s.OFF
  MARKED : u.MARKED = s.MARKED

/-- At PHASE `p`, the datapath registers that the rest of the run reads before it writes them agree (10_state.md R51): of W
only the first sixteen words before WEXP. A length past CHECK bounds BCOPY's reads, and T below 64 keeps ROUND in the tables. -/
def SameLive (p : BitVec 4) (s u : State) : Prop :=
  match p.toNat with
  | 2 => s.LEN.toNat < 2 ^ 61
  | 3 => s.LEN.toNat < 2 ^ 61 ∧ u.H = s.H
  | 4 => SameProgress s u
  | 5 => SameProgress s u ∧ u.B = s.B
  | 6 => SameProgress s u ∧ u.B = s.B ∧ u.NCOPY = s.NCOPY
  | 7 => SameProgress s u ∧ u.B = s.B
  | 8 => SameProgress s u ∧ u.B = s.B
  | 9 => SameProgress s u ∧ ∀ j < 16, wordAt u.W j = wordAt s.W j
  | 10 => SameProgress s u ∧ u.W = s.W
  | 11 => SameProgress s u ∧ u.W = s.W ∧ u.V = s.V ∧ u.T = s.T ∧ s.T.toNat < 64
  | 12 => SameProgress s u ∧ u.V = s.V
  | 13 => SameProgress s u
  | 14 => u.H = s.H
  | _ => True

/-- Two runs of the sequencer on the same inputs, at the same point: inputs, control, result and live registers agree, and all
else may differ. -/
structure RunAlike (s u : State) : Prop where
  turns : s.turns = []
  turns' : u.turns = []
  memory : ∀ a < s.LEN.toNat, s.msg.read a = u.msg.read a
  LEN : u.LEN = s.LEN
  MSGP : u.MSGP = s.MSGP
  PHASE : u.PHASE = s.PHASE
  DONE : u.DONE = s.DONE
  ERR : u.ERR = s.ERR
  ERRCODE : u.ERRCODE = s.ERRCODE
  digest : s.DONE = true → u.D = s.D
  live : SameLive s.PHASE s u

section
variable {s u t v : State} (h : RunAlike s u)
include h

theorem RunAlike.live_at {p : BitVec 4} (hp : s.PHASE = p) : SameLive p s u :=
  hp ▸ h.live

/-- An error entry ends both runs with the same result, and DONE = 0 shows no digest. -/
theorem RunAlike.raise (n : BitVec 2) : RunAlike (s.raise n) (u.raise n) :=
  { h with PHASE := rfl, DONE := rfl, ERR := rfl, ERRCODE := rfl, digest := by simp, live := trivial }

theorem RunAlike.check (hs : execCheck s = .next t) (hu : execCheck u = .next v) : RunAlike t v := by
  simp only [execCheck, h.LEN, h.MSGP] at hs hu
  split_ifs at hs hu with hlen hbuffer <;> cases hs <;> cases hu
  · exact h.raise _
  · exact h.raise _
  · exact { h with PHASE := rfl, live := Nat.not_le.mp hlen }

theorem RunAlike.init (hp : s.PHASE = 2#4) (hs : execInit s = .next t) (hu : execInit u = .next v) : RunAlike t v := by
  have hlen : s.LEN.toNat < 2 ^ 61 := h.live_at hp
  cases hs
  cases hu
  exact { h with PHASE := rfl, live := ⟨hlen, rfl⟩ }

theorem RunAlike.cnt (hp : s.PHASE = 3#4) (hs : execCnt s = .next t) (hu : execCnt u = .next v) : RunAlike t v := by
  obtain ⟨hlen, hH⟩ := h.live_at hp
  have hquot : lenQuot u = lenQuot s := by rw [lenQuot, lenQuot, h.LEN]
  have hrem : lenRem u = lenRem s := by rw [lenRem, lenRem, h.LEN]
  cases hs
  cases hu
  exact { h with PHASE := rfl, live := ⟨hlen, hH, by rw [State.goto_N, State.goto_N, hquot, hrem], rfl, rfl, rfl⟩ }

theorem RunAlike.bzero (hp : s.PHASE = 4#4) (hs : execBzero s = .next t) (hu : execBzero u = .next v) : RunAlike t v := by
  have hprog : SameProgress s u := h.live_at hp
  cases hs
  cases hu
  exact { h with PHASE := rfl, live := ⟨{ hprog with }, rfl⟩ }

/-- Both runs read the same bytes, or both wait (R229). -/
theorem RunAlike.bcopy (hp : s.PHASE = 5#4) (hs : execBcopy s = .next t) (hu : execBcopy u = .next v) : RunAlike t v := by
  obtain ⟨hprog, hB⟩ := h.live_at hp
  have hcount : copyCount u = copyCount s := by rw [copyCount, copyCount, h.LEN, hprog.OFF]
  have hread := bcopy_reads_congr s u.msg hprog.length h.memory
  rcases execBcopy_cases s t hs with ⟨hnone, rfl⟩ | ⟨bytes, hsome, rfl⟩ <;>
    rcases execBcopy_cases u v hu with ⟨hnone', rfl⟩ | ⟨bytes', hsome', rfl⟩
  · exact h
  · simp [hcount, hprog.OFF, ← hread, hnone] at hsome'
  · simp [hcount, hprog.OFF, ← hread, hsome] at hnone'
  · have hbytes : bytes' = bytes := by simpa [hcount, hprog.OFF, ← hread, hsome, eq_comm] using hsome'
    exact { h with
      PHASE := rfl
      live := ⟨{ hprog with OFF := by simp [hprog.OFF, hcount] }, by simp [hbytes, hB], by simp [hcount]⟩ }

theorem RunAlike.bmark (hp : s.PHASE = 6#4) (hs : execBmark s = .next t) (hu : execBmark u = .next v) : RunAlike t v := by
  obtain ⟨hprog, hB, hNCOPY⟩ := h.live_at hp
  simp only [execBmark, hprog.MARKED, hNCOPY, hB] at hs hu
  split_ifs at hs hu <;> cases hs <;> cases hu
  · exact { h with PHASE := rfl, live := ⟨{ hprog with MARKED := rfl }, rfl⟩ }
  · exact { h with PHASE := rfl, live := ⟨{ hprog with }, hB⟩ }

theorem RunAlike.blen (hp : s.PHASE = 7#4) (hs : execBlen s = .next t) (hu : execBlen u = .next v) : RunAlike t v := by
  obtain ⟨hprog, hB⟩ := h.live_at hp
  have hlast : u.I = u.N ↔ s.I = s.N := by rw [hprog.I, hprog.N]
  have hbits : bitLength u = bitLength s := by rw [bitLength, bitLength, h.LEN]
  simp only [execBlen, hlast] at hs hu
  split_ifs at hs hu <;> cases hs <;> cases hu
  · exact { h with PHASE := rfl, live := ⟨{ hprog with }, by simp [hB, hbits]⟩ }
  · exact { h with PHASE := rfl, live := ⟨{ hprog with }, hB⟩ }

theorem RunAlike.wload (hp : s.PHASE = 8#4) (hs : execWload s = .next t) (hu : execWload u = .next v) : RunAlike t v := by
  obtain ⟨hprog, hB⟩ := h.live_at hp
  have hwords : ∀ j < 16, wordAt v.W j = wordAt t.W j := fun j hj => by
    have hj : j < (blockWords s.B.toList).length := by simpa [blockWords] using hj
    rw [execWload_words hs hj, execWload_words hu (hB ▸ hj)]
    simp only [hB]
  cases hs
  cases hu
  exact { h with PHASE := rfl, live := ⟨{ hprog with }, hwords⟩ }

theorem RunAlike.wexp (hp : s.PHASE = 9#4) (hs : execWexp s = .next t) (hu : execWexp u = .next v) : RunAlike t v := by
  obtain ⟨hprog, hW⟩ := h.live_at hp
  cases hs
  cases hu
  exact { h with PHASE := rfl, live := ⟨{ hprog with }, expandFrom_congr _ _ hW⟩ }

theorem RunAlike.seed (hp : s.PHASE = 10#4) (hs : execSeed s = .next t) (hu : execSeed u = .next v) : RunAlike t v := by
  obtain ⟨hprog, hW⟩ := h.live_at hp
  cases hs
  cases hu
  exact { h with PHASE := rfl, live := ⟨{ hprog with }, hW, hprog.H, rfl, Nat.zero_lt_succ 63⟩ }

/-- Inside the tables no free word is drawn (R152). -/
theorem RunAlike.round (hp : s.PHASE = 11#4) (hs : execRound s = .next t) (hu : execRound u = .next v) : RunAlike t v := by
  obtain ⟨hprog, hW, hV, hT, hbound⟩ := h.live_at hp
  have hV' : compressRound u.V (roundConstant u) (roundWord u) = compressRound s.V (roundConstant s) (roundWord s) := by
    simp [roundConstant, roundWord, hV, hT, hW, hbound]
  cases hs
  cases hu
  rw [hT, hV']
  by_cases hlast : s.T = 63#7
  · rw [if_pos hlast]
    exact { h with PHASE := rfl, live := ⟨{ hprog with }, rfl⟩ }
  · have hmore : s.T.toNat ≠ 63 := fun h63 => hlast (BitVec.eq_of_toNat_eq h63)
    rw [if_neg hlast]
    exact { h with PHASE := rfl, live := ⟨{ hprog with }, hW, rfl, rfl, by simp; omega⟩ }

theorem RunAlike.accum (hp : s.PHASE = 12#4) (hs : execAccum s = .next t) (hu : execAccum u = .next v) : RunAlike t v := by
  obtain ⟨hprog, hV⟩ := h.live_at hp
  cases hs
  cases hu
  exact { h with PHASE := rfl, live := { hprog with H := by simp [hprog.H, hV] } }

theorem RunAlike.next (hp : s.PHASE = 13#4) (hs : execNext s = .next t) (hu : execNext u = .next v) : RunAlike t v := by
  have hprog : SameProgress s u := h.live_at hp
  have hlast : u.I = u.N ↔ s.I = s.N := by rw [hprog.I, hprog.N]
  simp only [execNext, hlast] at hs hu
  split_ifs at hs hu <;> cases hs <;> cases hu
  · exact { h with PHASE := rfl, live := hprog.H }
  · exact { h with PHASE := rfl, live := { hprog with I := by simp [hprog.I] } }

theorem RunAlike.final (hp : s.PHASE = 14#4) (hs : execFinal s = .next t) (hu : execFinal u = .next v) : RunAlike t v := by
  have hH : u.H = s.H := h.live_at hp
  cases hs
  cases hu
  exact { h with PHASE := rfl, DONE := rfl, digest := fun _ => by simp [hH], live := trivial }

/-- Whatever PHASE selects, the two runs stay alike; REST and the reserved code leave both states as they are. -/
theorem RunAlike.sequencer (hs : exec (decodePhase s.PHASE) s = .next t) (hu : exec (decodePhase s.PHASE) u = .next v) :
    RunAlike t v := by
  rcases decodePhase_cases s.PHASE with ⟨hp, hi⟩ | ⟨hp, hi⟩ | ⟨hp, hi⟩ | ⟨hp, hi⟩ | ⟨hp, hi⟩ | ⟨hp, hi⟩ | ⟨hp, hi⟩ |
    ⟨hp, hi⟩ | ⟨hp, hi⟩ | ⟨hp, hi⟩ | ⟨hp, hi⟩ | ⟨hp, hi⟩ | ⟨hp, hi⟩ | ⟨hp, hi⟩ | ⟨hp, hi⟩ | ⟨hp, hi⟩ <;> rw [hi] at hs hu
  · cases hs; cases hu; exact h
  · exact h.check hs hu
  · exact h.init hp hs hu
  · exact h.cnt hp hs hu
  · exact h.bzero hp hs hu
  · exact h.bcopy hp hs hu
  · exact h.bmark hp hs hu
  · exact h.blen hp hs hu
  · exact h.wload hp hs hu
  · exact h.wexp hp hs hu
  · exact h.seed hp hs hu
  · exact h.round hp hs hu
  · exact h.accum hp hs hu
  · exact h.next hp hs hu
  · exact h.final hp hs hu
  · cases hs; cases hu; exact h

theorem RunAlike.step_alike : ∃ t v : State, step s = .next t ∧ step u = .next v ∧ RunAlike t v := by
  obtain ⟨t, ht⟩ := exec_answers (decodePhase s.PHASE) s
  obtain ⟨v, hv⟩ := exec_answers (decodePhase s.PHASE) u
  exact ⟨t, v, (step_of_phase h.turns rfl).trans ht, (step_of_phase h.turns' h.PHASE).trans hv, h.sequencer ht hv⟩

theorem RunAlike.runSteps_alike (k : Nat) :
    ∃ t v : State, runSteps k s = .next t ∧ runSteps k u = .next v ∧ RunAlike t v := by
  induction k with
  | zero => exact ⟨s, u, rfl, rfl, h⟩
  | succ k ih =>
    obtain ⟨s', u', hs, hu, hmid⟩ := ih
    obtain ⟨t, v, ht, hv, halike⟩ := hmid.step_alike
    exact ⟨t, v, runSteps_succ hs ht, runSteps_succ hu hv, halike⟩

end

/-- Settles O60: at CHECK no datapath register is live, so the runs start alike, and they stay alike at every step. -/
theorem digestDependsOnlyOnTheInputs : Obligations.DigestDependsOnlyOnTheInputs := by
  unfold Obligations.DigestDependsOnlyOnTheInputs
  intro s u hps hpu hts htu hds hdu hes heu hcode hlen hmsgp hmem k
  have hstart : RunAlike s u := {
    turns := hts
    turns' := htu
    memory := hmem
    LEN := hlen.symm
    MSGP := hmsgp.symm
    PHASE := hpu.trans hps.symm
    DONE := hdu.trans hds.symm
    ERR := heu.trans hes.symm
    ERRCODE := hcode.symm
    digest := by simp [hds]
    live := hps ▸ trivial }
  obtain ⟨t, v, ht, hv, h⟩ := hstart.runSteps_alike k
  exact ⟨t, v, ht, hv, h.PHASE.symm, h.DONE.symm, h.ERR.symm, h.ERRCODE.symm, fun hdone => (h.digest hdone).symm⟩

end Sys2Proof.Machine

/-! # Proofs about the host sequencer (45_host_sequencer.md) -/

namespace Sys2Proof.Machine

/-! ## What a step runs (R180, R195) -/

/-- Every step answers a next state, since no meaning stops and every other turn has an effect. -/
theorem step_answers (s : State) : ∃ t : State, step s = .next t := by
  cases hi : turnInstr s.turn s with
  | none => exact ⟨_, step_of_effect s hi⟩
  | some i =>
    obtain ⟨t, ht⟩ := exec_answers i s.popTurn
    exact ⟨t, (step_of_instr s i hi).trans ht⟩

/-- The turn in front is used up and runs the instruction it selects. -/
theorem step_of_first_turn {s : State} {u : Turn} {rest : List Turn} {i : Instr} (hturns : s.turns = u :: rest)
    (hi : turnInstr u s = some i) : step s = exec i { s with turns := rest } := by
  rw [step_of_instr s i (by rw [s.turn_of_cons u rest hturns, hi]), s.popTurn_of_cons u rest hturns]

/-- WRCMD of a byte that selects a command is the command (R180). -/
theorem exec_wrcmd_eq {c : BitVec 8} {i : Instr} (s : State) (h : decode (.cmd c) = .ok i) : exec (.wrcmd c) s = exec i s := by
  change execWrcmd c s = exec i s
  rw [decode] at h
  rw [execWrcmd]
  cases hc : decodeCommand c <;> rw [hc] at h <;> cases h <;> rfl

/-- Settles O5: the turn in front selects the instruction, and a written command byte stands for its command. -/
theorem stepRunsTheSelectedInstruction : Obligations.StepRunsTheSelectedInstruction := by
  unfold Obligations.StepRunsTheSelectedInstruction
  refine ⟨fun s hturns => step_of_phase hturns rfl, fun s rest hturns => step_of_first_turn hturns rfl,
    fun s r rest hturns hr => step_of_first_turn hturns (turnInstr_hostRead s r hr),
    fun s r v rest hturns hr => step_of_first_turn hturns (turnInstr_hostWrite s r v hr),
    fun s v i rest hturns hi => ?_⟩
  exact (step_of_first_turn hturns (turnInstr_hostWrite s 0 v (by decide))).trans (exec_wrcmd_eq _ hi)

/-! ## Host commands (R181 to R184) -/

theorem State.drop_frame (s : State) : Frame [.REJ] s s.drop :=
  ⟨⟨(writesOnly_iff _ _ _).mpr (by simp), fun _ => rfl, rfl⟩, rfl, rfl⟩

theorem State.raise_frame (s : State) (n : BitVec 2) : Frame [.PHASE, .DONE, .ERR, .ERRCODE] s (s.raise n) :=
  ⟨⟨(writesOnly_iff _ _ _).mpr (by simp), fun _ => rfl, rfl⟩, rfl, rfl⟩

/-- Settles O9: the two bytes of the row, and a meaning that answers its state. -/
theorem nopDoesNothing : Obligations.NopDoesNothing := by
  unfold Obligations.NopDoesNothing
  exact ⟨by decide, by decide, fun _ _ => rfl⟩

/-- Settles O10: the two clauses are the two branches of START. -/
theorem startAcceptedOnlyAtRest : Obligations.StartAcceptedOnlyAtRest := by
  unfold Obligations.StartAcceptedOnlyAtRest
  refine ⟨by decide, by decide, fun m s hrest => ?_, fun m s hbusy => ⟨_, if_neg hbusy, rfl, s.drop_frame⟩⟩
  exact ⟨_, if_pos hrest, rfl, rfl, rfl, rfl, rfl, ⟨(writesOnly_iff _ _ _).mpr (by simp), fun _ => rfl, rfl⟩, rfl, rfl⟩

/-- Settles O11: CLEAR's six writes; its frame allows more than it writes. -/
theorem clearReturnsToRest : Obligations.ClearReturnsToRest := by
  unfold Obligations.ClearReturnsToRest
  refine ⟨by decide, by decide, fun x s => ?_⟩
  obtain ⟨t, he, hframe⟩ := clearLeavesTheDatapathInPlace x s
  obtain rfl := execClear_cases x s t he
  exact ⟨_, he, rfl, rfl, rfl, rfl, rfl, rfl, hframe.mono (by decide)⟩

theorem exec_wrcmd_of_illegal {c b : BitVec 8} (s : State) (h : decodeCommand c = .illegal b) :
    exec (.wrcmd c) s = illegalCommand s := by
  simp only [exec, execWrcmd, h]

/-- Settles O13: such a byte is no command's (R82), and the two clauses are the two branches of the illegal byte. -/
theorem illegalCommandByte : Obligations.IllegalCommandByte := by
  unfold Obligations.IllegalCommandByte
  intro c s hbyte
  obtain ⟨-, -, -, -, hillegal⟩ := commandMapByMaskAndMatch
  rw [exec_wrcmd_of_illegal s ((hillegal c).mpr hbyte)]
  refine ⟨fun hrest => ⟨_, if_pos hrest, rfl, rfl, rfl, rfl, ?_⟩, fun hbusy => ⟨_, if_neg hbusy, rfl, s.drop_frame⟩⟩
  exact ⟨⟨(writesOnly_iff _ _ _).mpr (by simp [hrest]), fun _ => rfl, rfl⟩, rfl, rfl⟩

/-- Settles O14: WRCMD is the command's own meaning, and every meaning answers. -/
theorem wrcmdPerformsTheSelectedCommand : Obligations.WrcmdPerformsTheSelectedCommand := by
  unfold Obligations.WrcmdPerformsTheSelectedCommand
  exact fun c i s h => ⟨exec_wrcmd_eq s h, exec_answers _ s⟩

/-! ## Host accesses (R185 to R189) -/

/-- What a read returns, and the count of free values, are no register, no memory and no turn. -/
theorem State.answered_kept (s : State) (v : Option HostValue) (n : Nat) : Kept [] s { s with lastRead := v, fresh := n } :=
  ⟨(writesOnly_iff _ _ _).mpr (by simp), fun _ => rfl, rfl⟩

/-- Settles O15: the two clauses are the two branches of WRLEN. -/
theorem wrlenStoresAtRest : Obligations.WrlenStoresAtRest := by
  unfold Obligations.WrlenStoresAtRest
  refine ⟨by decide, fun v s hrest => ?_, fun v s hbusy => ⟨_, if_neg hbusy, rfl, s.drop_frame⟩⟩
  exact ⟨_, if_pos hrest, rfl, ⟨(writesOnly_iff _ _ _).mpr (by simp), fun _ => rfl, rfl⟩, rfl, rfl⟩

/-- Settles O16: the read answers LEN and writes no register. -/
theorem rdlenReturnsLen : Obligations.RdlenReturnsLen := by
  unfold Obligations.RdlenReturnsLen
  exact fun s => ⟨_, rfl, rfl, s.answered_kept _ _, rfl⟩

/-- Settles O17: the read answers the STATUS word, whose fields are the flags. -/
theorem rdstatusReturnsTheStatusFields : Obligations.RdstatusReturnsTheStatusFields := by
  unfold Obligations.RdstatusReturnsTheStatusFields
  exact fun s => ⟨_, s.status, rfl, rfl, by rw [s.status_bit0, s.busy_iff], s.status_bit1, s.status_bit2, s.status_bit3,
    s.status_errcode, s.status_reserved6, s.status_phase, s.status_reserved12, s.answered_kept _ _, rfl⟩

/-- Byte `k` of DIGEST from the top is D[k] (R25). -/
theorem State.digest_byte (s : State) (k : Fin 32) : s.digest.extractLsb' (248 - 8 * k.val) 8 = s.D[k.val] := by
  refine BitVec.eq_of_getLsbD_eq fun i hi => ?_
  have hbyte := bytesToNumber_byte s.D.toList (by simp) k.val (by simp) i hi
  have hplace : 8 * (s.D.toList.length - 1 - k.val) + i = 248 - 8 * k.val + i := by simp; omega
  rw [hplace] at hbyte
  simpa [State.digest, hi] using hbyte

/-- Settles O18: with DONE = 1 the read answers DIGEST, and DIGEST is the bytes of D in order. -/
theorem rddigestReturnsTheDigestBytes : Obligations.RddigestReturnsTheDigestBytes := by
  unfold Obligations.RddigestReturnsTheDigestBytes
  exact fun s hdone => ⟨_, s.digest, if_pos hdone, rfl, s.digest_byte, s.answered_kept _ _, rfl⟩

/-- Settles O19: with DONE = 0 the read takes the other branch. -/
theorem rddigestWithoutDoneReturnsAFreeValue : Obligations.RddigestWithoutDoneReturnsAFreeValue := by
  unfold Obligations.RddigestWithoutDoneReturnsAFreeValue
  intro s hdone
  have hnot : ¬s.DONE = true := by simp [hdone]
  exact ⟨_, if_neg hnot, rfl, rfl, s.answered_kept _ _⟩

/-- Settles O20: RDCMD answers a constant, the ignored writes answer their state, and a register number of 4 or above
selects no instruction, so only the turn's own effect is left. -/
theorem remainingAccessesChangeNothing : Obligations.RemainingAccessesChangeNothing := by
  unfold Obligations.RemainingAccessesChangeNothing
  refine ⟨fun s => ⟨_, rfl, rfl, s.answered_kept _ _, rfl⟩, fun _ _ => rfl, fun _ _ => rfl, fun s r v rest hturns hr => ?_,
    fun s r rest hturns hr => ?_⟩
  · have hturn := s.turn_of_cons _ _ hturns
    rw [step_of_effect s (by rw [hturn, turnInstr_hostWrite_unmapped s r v hr]), hturn, s.popTurn_of_cons _ _ hturns]
    rfl
  · have hturn := s.turn_of_cons _ _ hturns
    rw [step_of_effect s (by rw [hturn, turnInstr_hostRead_unmapped s r hr]), hturn, s.popTurn_of_cons _ _ hturns]
    exact ⟨_, _, rfl, rfl, fun g => by cases g <;> rfl, rfl, rfl⟩

/-! ## The sequencer's own codes (R190, R195) -/

theorem step_of_reset {s : State} (h : s.turn = .reset) : step s = .next s.popTurn.resetInput := by
  rw [step_of_effect s (by rw [h]; rfl), h]
  rfl

/-- Settles O21: REST and the reserved code answer their state; CLEAR and reset write PHASE whatever it holds. -/
theorem sequencerWithNoStepChangesNothing : Obligations.SequencerWithNoStepChangesNothing := by
  unfold Obligations.SequencerWithNoStepChangesNothing
  refine ⟨fun _ => rfl, fun _ => rfl, fun s hturns hp => ⟨step_of_phase hturns hp, ?_⟩,
    fun s hturns hp => ⟨step_of_phase hturns hp, ?_⟩, fun s rest _ hturns => ?_⟩
  · rw [s.status_bit0, State.busy, hp]
    rfl
  · rw [s.status_bit0, State.busy, hp]
    rfl
  · obtain ⟨-, -, -, -, hcommand⟩ := stepRunsTheSelectedInstruction
    rcases hturns with hturns | hturns
    · exact ⟨_, hcommand s _ (.clear false) rest hturns (by decide), rfl⟩
    · exact ⟨_, step_of_reset (s.turn_of_cons _ _ hturns), rfl⟩

/-- Settles O22: the three clauses are the three branches of CHECK. -/
theorem checkTestsThePreconditions : Obligations.CheckTestsThePreconditions := by
  unfold Obligations.CheckTestsThePreconditions
  refine ⟨rfl, fun s hlong => ⟨_, if_pos hlong, rfl, rfl, rfl, rfl, s.raise_frame _⟩, fun s hlen hne hbuf => ?_,
    fun s hlen hmet => ?_⟩
  · have he : exec .check s = .next (s.raise 2#2) := (if_neg hlen.not_ge).trans (if_pos ⟨hne, hbuf⟩)
    exact ⟨_, he, rfl, rfl, rfl, rfl, s.raise_frame _⟩
  · have hok : ¬(s.LEN ≠ 0#64 ∧ s.MSGP = false) := by rcases hmet with h | h <;> simp [h]
    have he : exec .check s = .next (s.goto 2#4) := (if_neg hlen.not_ge).trans (if_neg hok)
    exact ⟨_, he, rfl, s.goto_frame _⟩

/-! ## The transition table (R196) -/

theorem SequencerRow.of_check {s t : State} (hp : s.PHASE = 1#4) (he : execCheck s = .next t) : SequencerRow s t := by
  rcases execCheck_cases s t he with ⟨hlong, rfl⟩ | ⟨hlen, hne, hbuf, rfl⟩ | ⟨hlen, hmet, rfl⟩
  · exact .inl ⟨hp, hlong, rfl, rfl, rfl⟩
  · exact .inr (.inl ⟨hp, hlen, hne, hbuf, rfl, rfl, rfl⟩)
  · exact .inr (.inr (.inl ⟨hp, hlen, hmet, rfl⟩))

/-- The last round is the one at T = 63, and under the invariant T is no higher. -/
theorem SequencerRow.of_round {s t : State} (h : Inv s) (hp : s.PHASE = 11#4) (he : execRound s = .next t) :
    SequencerRow s t := by
  have hT := h.round_index (by simp [hp])
  obtain ⟨u, hu, -, hnext, hphase, -⟩ := execRound_of_lt s (by omega)
  obtain rfl : u = t := by injection hu.symm.trans he
  by_cases hlast : s.T.toNat = 63
  · have h63 : s.T = 63#7 := BitVec.eq_of_toNat_eq hlast
    have h64 : u.T = 64#7 := BitVec.eq_of_toNat_eq (by rw [hnext, hlast]; rfl)
    simp [SequencerRow, hp, hphase, h63, h64]
  · have hless : s.T.toNat < 63 := by omega
    simp [SequencerRow, hp, hphase, hlast, hless, hnext]

/-- NEXT goes on while a block is left: under the invariant I is at most N. -/
theorem SequencerRow.of_next {s t : State} (h : Inv s) (hp : s.PHASE = 13#4) (he : execNext s = .next t) :
    SequencerRow s t := by
  obtain ⟨hN, -, hIN⟩ := h.block_index (by simp [hp])
  rcases execNext_cases s t he with ⟨hlast, rfl⟩ | ⟨hmore, rfl⟩
  · simp [SequencerRow, hp, hlast]
  · have hless : s.I.toNat < s.N.toNat := hIN.lt_of_ne fun e => hmore (BitVec.eq_of_toNat_eq e)
    have hI : (s.I + 1#56).toNat = s.I.toNat + 1 := by simp; omega
    simp [SequencerRow, hp, hless, hI]

/-- BCOPY waits for a byte that nothing answers (R229). -/
theorem Inv.unanswered_of_waits {s : State} (h : Inv s) (hp : s.PHASE = 5#4)
    (hnone : readFrom s.msg s.OFF 0 (copyCount s) = none) :
    ∃ k : Nat, k < copyCount s ∧ s.msg.read (s.OFF.toNat + k) = none := by
  obtain ⟨hbelow, hlen⟩ := h.bcopy_reads_below_LEN hp
  have hwrap : s.OFF.toNat + 0 + copyCount s ≤ 2 ^ 61 := by omega
  exact (readFrom_none_iff _ _ _ _ hwrap).mp hnone

/-- The sequencer's step while busy is a row of the table, unless BCOPY waits (R229). -/
theorem sequencerRow_or_waits {s t : State} (h : Inv s) (hbusy : s.PHASE ≠ 0#4)
    (he : exec (decodePhase s.PHASE) s = .next t) :
    SequencerRow s t ∨ (s.PHASE = 5#4 ∧ t = s ∧ ∃ k : Nat, k < copyCount s ∧ s.msg.read (s.OFF.toNat + k) = none) := by
  have hlegal := h.phase_legal
  rcases decodePhase_cases s.PHASE with ⟨hp, hi⟩ | ⟨hp, hi⟩ | ⟨hp, hi⟩ | ⟨hp, hi⟩ | ⟨hp, hi⟩ | ⟨hp, hi⟩ | ⟨hp, hi⟩ |
    ⟨hp, hi⟩ | ⟨hp, hi⟩ | ⟨hp, hi⟩ | ⟨hp, hi⟩ | ⟨hp, hi⟩ | ⟨hp, hi⟩ | ⟨hp, hi⟩ | ⟨hp, hi⟩ | ⟨hp, hi⟩ <;> rw [hi] at he
  case inl => exact absurd hp hbusy
  · exact .inl (.of_check hp he)
  · cases he; simp [SequencerRow, hp]
  · cases he; simp [SequencerRow, hp]
  · cases he; simp [SequencerRow, hp]
  · rcases execBcopy_cases s t he with ⟨hnone, rfl⟩ | ⟨bytes, -, rfl⟩
    · exact .inr ⟨hp, rfl, h.unanswered_of_waits hp hnone⟩
    · simp [SequencerRow, hp]
  · rcases execBmark_cases s t he with ⟨-, -, rfl⟩ | ⟨-, rfl⟩ <;> simp [SequencerRow, hp]
  · rcases execBlen_cases s t he with ⟨-, rfl⟩ | ⟨-, rfl⟩ <;> simp [SequencerRow, hp]
  · cases he; simp [SequencerRow, hp]
  · cases he; simp [SequencerRow, hp]
  · cases he; simp [SequencerRow, hp]
  · exact .inl (.of_round h hp he)
  · cases he; simp [SequencerRow, hp]
  · exact .inl (.of_next h hp he)
  · cases he; simp [SequencerRow, hp]
  · simp [hp] at hlegal

/-- What a written command byte can do to PHASE: an accepted START and CLEAR change it (R182, R183). -/
theorem execWrcmd_changes_phase {c : BitVec 8} {s t : State} (he : execWrcmd c s = .next t) (hne : t.PHASE ≠ s.PHASE) :
    (s.PHASE = 0#4 ∧ ∃ m, decodeCommand c = .start m ∧ t = { s.clearResult with MSGP := m }.goto 1#4) ∨
    ∃ x, decodeCommand c = .clear x ∧ t = { s.clearResult with REJ := false, MSGP := false }.goto 0#4 := by
  rcases execWrcmd_cases c s t he with ⟨_, -, rfl⟩ | ⟨m, hc, he⟩ | ⟨x, hc, he⟩ | ⟨_, -, he⟩
  · exact absurd rfl hne
  · rcases execStart_cases m s t he with ⟨hrest, rfl⟩ | ⟨-, rfl⟩
    · exact .inl ⟨hrest, m, hc, rfl⟩
    · exact absurd rfl hne
  · exact .inr ⟨x, hc, execClear_cases x s t he⟩
  · rcases illegalCommand_cases s t he with ⟨hrest, rfl⟩ | ⟨-, rfl⟩
    · exact absurd hrest.symm hne
    · exact absurd rfl hne

/-- Settles O49: agent by agent, a change of PHASE is the sequencer's row, an accepted START, CLEAR or reset. -/
theorem phaseFollowsTheTransitionTable : Obligations.PhaseFollowsTheTransitionTable := by
  unfold Obligations.PhaseFollowsTheTransitionTable
  have hpop : ∀ s : State, Inv s → Inv s.popTurn := fun s hinv => hinv.of_other_fields ..
  refine ⟨fun s t hinv hstep hne => ?_, fun s hinv hturn hbusy => ?_, fun s c hrest hwrites hillegal => ?_⟩
  · rcases step_inversion s t hstep with ⟨hturn, he⟩ | ⟨_, _, _, -, rfl⟩ | ⟨_, _, -, -, -, rfl⟩ | ⟨v, hturn, he⟩ |
      ⟨v, -, he⟩ | ⟨_, _, -, rfl⟩ | ⟨hturn, rfl⟩
    · have hbusy : s.PHASE ≠ 0#4 := by rintro h0; rw [h0] at he; cases he; exact hne rfl
      rcases sequencerRow_or_waits (hpop s hinv) hbusy he with hrow | ⟨-, rfl, -⟩
      · exact .inl ⟨hturn, hrow⟩
      · exact absurd rfl hne
    · exact absurd rfl hne
    · exact absurd rfl hne
    · rcases execWrcmd_changes_phase he hne with ⟨hrest, m, hc, rfl⟩ | ⟨x, hc, rfl⟩
      · exact .inr (.inl ⟨hrest, rfl, _, m, ⟨v, hturn, rfl⟩, hc, rfl, rfl, rfl, rfl⟩)
      · exact .inr (.inr (.inl ⟨rfl, ⟨_, x, ⟨v, hturn, rfl⟩, hc⟩, rfl, rfl, rfl, rfl, rfl⟩))
    · rcases execWrlen_cases _ _ _ he with ⟨-, rfl⟩ | ⟨-, rfl⟩ <;> exact absurd rfl hne
    · exact absurd rfl hne
    · exact .inr (.inr (.inr ⟨rfl, hturn⟩))
  · obtain ⟨t, he⟩ := exec_answers (decodePhase s.PHASE) s.popTurn
    exact ⟨t, (step_of_instr s _ (by rw [hturn]; rfl)).trans he, sequencerRow_or_waits (hpop s hinv) hbusy he⟩
  · obtain ⟨v, hturn, rfl⟩ := hwrites
    have he := (exec_wrcmd_of_illegal s.popTurn hillegal).trans (if_pos hrest)
    have hstep := step_of_instr s _ (by rw [hturn]; exact turnInstr_hostWrite s 0 v (by decide))
    exact ⟨_, hstep.trans he, rfl, rfl, rfl, rfl⟩

/-! ## A busy CORE and the host (R201) -/

/-- A busy CORE takes its turn off the list, answers reads and may set REJ: nothing else. -/
theorem step_of_busy_host {s t : State} (hbusy : s.PHASE ≠ 0#4)
    (hhost : (∃ r : Nat, s.turn = .hostRead r) ∨
      ∃ (r : Nat) (v : BitVec 256), s.turn = .hostWrite r v ∧ ¬(r = 0 ∧ ∃ x, decodeCommand (v.setWidth 8) = .clear x))
    (h : step s = .next t) : ∃ rej v n, t = { s.popTurn with REJ := rej, lastRead := v, fresh := n } := by
  rcases step_inversion s t h with ⟨hturn, -⟩ | ⟨_, _, _, -, rfl⟩ | ⟨_, _, -, -, -, rfl⟩ | ⟨v, hturn, he⟩ | ⟨v, -, he⟩ |
    ⟨_, _, hturn, -⟩ | ⟨hturn, -⟩
  · simp [hturn] at hhost
  · exact ⟨_, _, _, rfl⟩
  · exact ⟨_, _, _, rfl⟩
  · have hnoclear : ∀ x, decodeCommand (v.setWidth 8) ≠ .clear x := by simpa [hturn] using hhost
    rcases execWrcmd_cases _ _ _ he with ⟨_, -, rfl⟩ | ⟨m, -, he⟩ | ⟨x, hc, -⟩ | ⟨_, -, he⟩
    · exact ⟨_, _, _, rfl⟩
    · rcases execStart_cases m _ _ he with ⟨hrest, -⟩ | ⟨-, rfl⟩
      · exact absurd hrest hbusy
      · exact ⟨_, _, _, rfl⟩
    · exact absurd hc (hnoclear x)
    · rcases illegalCommand_cases _ _ he with ⟨hrest, -⟩ | ⟨-, rfl⟩
      · exact absurd hrest hbusy
      · exact ⟨_, _, _, rfl⟩
  · rcases execWrlen_cases _ _ _ he with ⟨hrest, -⟩ | ⟨-, rfl⟩
    · exact absurd hrest hbusy
    · exact ⟨_, _, _, rfl⟩
  · simp [hturn] at hhost
  · simp [hturn] at hhost

/-- Settles O54: every outcome of such an access differs in REJ and the host's side at most. -/
theorem busyHostAccessDisturbsNothing : Obligations.BusyHostAccessDisturbsNothing := by
  unfold Obligations.BusyHostAccessDisturbsNothing
  intro s hbusy hhost
  obtain ⟨t, ht⟩ := step_answers s
  obtain ⟨rej, v, n, rfl⟩ := step_of_busy_host hbusy hhost ht
  refine ⟨_, ht, fun r hr => ?_, rfl, rfl⟩
  cases r
  case REJ => exact absurd rfl hr
  all_goals rfl

/-! ## Every run ends (R197 to R199) -/

/-- How many blocks come after the one at hand. -/
def blocksLater (s : State) : Nat := blockCount s.LEN.toNat - s.I.toNat

/-- How many micro-operations are left of a run (R198): what is left of the block at hand, 73 for each later block, FINAL. -/
def stepsLeft (s : State) : Nat :=
  match s.PHASE.toNat with
  | 1 => 4 + 73 * blockCount s.LEN.toNat
  | 2 => 3 + 73 * blockCount s.LEN.toNat
  | 3 => 2 + 73 * blockCount s.LEN.toNat
  | 4 => 74 + 73 * blocksLater s
  | 5 => 73 + 73 * blocksLater s
  | 6 => 72 + 73 * blocksLater s
  | 7 => 71 + 73 * blocksLater s
  | 8 => 70 + 73 * blocksLater s
  | 9 => 69 + 73 * blocksLater s
  | 10 => 68 + 73 * blocksLater s
  | 11 => (67 - s.T.toNat) + 73 * blocksLater s
  | 12 => 3 + 73 * blocksLater s
  | 13 => 2 + 73 * blocksLater s
  | 14 => 1
  | _ => 0

/-- The reads of a run that CHECK lets pass are answered. -/
def RunAnswered (s : State) : Prop :=
  s.LEN.toNat < 2 ^ 61 → (s.LEN = 0#64 ∨ s.MSGP = true) → ∀ a : Nat, a < s.LEN.toNat → ∃ b : Byte, s.msg.read a = some b

theorem Inv.stepsLeft_le {s : State} (h : Inv s) : stepsLeft s ≤ 4 + 73 * blockCount s.LEN.toNat := by
  have hindex := h.block_index
  have hlater : 4 ≤ s.PHASE.toNat → blocksLater s + 1 ≤ blockCount s.LEN.toNat := by
    unfold blocksLater
    omega
  unfold stepsLeft
  split <;> omega

section
variable {s t : State}

theorem inputs_and_index_not_mem_mayWrite_decodePhase (p : BitVec 4) :
    Reg.MSGP ∉ mayWrite (decodePhase p) ∧ (p ≠ 3#4 → p ≠ 13#4 → Reg.I ∉ mayWrite (decodePhase p)) := by
  revert p
  decide

/-- Beside the entries of its row of the access table the sequencer writes DONE at most, in CHECK's error entry. -/
theorem sequencer_writesOnly (he : exec (decodePhase s.PHASE) s = .next t) :
    WritesOnly (.DONE :: mayWrite (decodePhase s.PHASE)) s t := by
  by_cases hi : decodePhase s.PHASE = .check
  · rw [hi] at he ⊢
    exact execCheck_writesOnly s t he
  · exact fun r hr => exec_writesOnly _ s t hi he r fun hmem => hr (List.mem_cons_of_mem _ hmem)

theorem sequencer_keeps_LEN (he : exec (decodePhase s.PHASE) s = .next t) : t.LEN = s.LEN :=
  sequencer_writesOnly he .LEN (by simp [LEN_not_mem_mayWrite_decodePhase])

theorem RunAnswered.step (h : RunAnswered s) (he : exec (decodePhase s.PHASE) s = .next t) : RunAnswered t := by
  have hLEN := sequencer_keeps_LEN he
  have hMSGP : t.MSGP = s.MSGP :=
    sequencer_writesOnly he .MSGP (by simp [(inputs_and_index_not_mem_mayWrite_decodePhase s.PHASE).1])
  obtain ⟨hmsg, -⟩ := exec_keeps_outside _ s t he
  rwa [RunAnswered, hLEN, hMSGP, hmsg]

theorem blocksLater_of_sequencer (he : exec (decodePhase s.PHASE) s = .next t) (h3 : s.PHASE ≠ 3#4) (h13 : s.PHASE ≠ 13#4) :
    blocksLater t = blocksLater s := by
  have hI : t.I = s.I :=
    sequencer_writesOnly he .I (by simp [(inputs_and_index_not_mem_mayWrite_decodePhase s.PHASE).2 h3 h13])
  rw [blocksLater, blocksLater, hI, sequencer_keeps_LEN he]

/-- A row of the table is one micro-operation less to go, or CHECK's error entry, which ends the run. -/
theorem SequencerRow.stepsLeft_lt (hrow : SequencerRow s t) (h : Inv s)
    (he : exec (decodePhase s.PHASE) s = .next t) : stepsLeft t < stepsLeft s := by
  have hLEN := sequencer_keeps_LEN he
  have hlater := blocksLater_of_sequencer he
  rcases hrow with ⟨hp, -, hq, -⟩ | ⟨hp, -, -, -, hq, -⟩ | ⟨hp, -, -, hq⟩ | ⟨hp, hq⟩ | ⟨hp, hq, hfirst⟩ | ⟨hp, hq⟩ | ⟨hp, hq⟩ |
    ⟨hp, hq⟩ | ⟨hp, hq⟩ | ⟨hp, hq⟩ | ⟨hp, hq⟩ | ⟨hp, hq, hT⟩ | ⟨hp, hmore, hq, hT⟩ | ⟨hp, hT, hq, -⟩ | ⟨hp, hq⟩ |
    ⟨hp, hless, hq, hnext⟩ | ⟨hp, -, hq⟩ | ⟨hp, hq, -⟩
  · simp [stepsLeft, hp, hq]
  · simp [stepsLeft, hp, hq]
  · simp [stepsLeft, hp, hq, hLEN]
  · simp [stepsLeft, hp, hq, hLEN]
  · have hafter : blocksLater t + 1 = blockCount s.LEN.toNat := by
      simp only [blocksLater, hLEN, hfirst, blockCount, BitVec.reduceToNat]
      omega
    simp [stepsLeft, hp, hq]
    omega
  · simp [stepsLeft, hp, hq, hlater]
  · simp [stepsLeft, hp, hq, hlater]
  · simp [stepsLeft, hp, hq, hlater]
  · simp [stepsLeft, hp, hq, hlater]
  · simp [stepsLeft, hp, hq, hlater]
  · simp [stepsLeft, hp, hq, hlater]
  · simp [stepsLeft, hp, hq, hlater, hT]
  · simp [stepsLeft, hp, hq, hlater, hT]
    omega
  · simp [stepsLeft, hp, hq, hlater, hT]
  · simp [stepsLeft, hp, hq, hlater]
  · obtain ⟨hN, -⟩ := h.block_index (by simp [hp])
    have hafter : blocksLater t + 1 = blocksLater s := by
      simp only [blocksLater, hLEN, hnext]
      omega
    simp [stepsLeft, hp, hq]
    omega
  · simp [stepsLeft, hp, hq]
    omega
  · simp [stepsLeft, hp, hq]

/-- A row that leads to REST leaves a result: CHECK's error entries and FINAL. -/
theorem SequencerRow.result_at_rest (hrow : SequencerRow s t) (hrest : t.PHASE = 0#4) : t.DONE = true ∨ t.ERR = true := by
  simp [SequencerRow, hrest] at hrow
  tauto

/-- Where its reads are answered, a busy CORE takes a row of the table. -/
theorem RunAnswered.takes_row (h : RunAnswered s) (hinv : Inv s) (hbusy : s.PHASE ≠ 0#4)
    (he : exec (decodePhase s.PHASE) s = .next t) : SequencerRow s t := by
  refine (sequencerRow_or_waits hinv hbusy he).resolve_right ?_
  rintro ⟨hp, -, k, hk, hunanswered⟩
  obtain ⟨hlen, hmet⟩ := hinv.preconditions (by simp [hp])
  obtain ⟨hbelow, -⟩ := hinv.bcopy_reads_below_LEN hp
  obtain ⟨b, hb⟩ := h hlen hmet (s.OFF.toNat + k) (by omega)
  simp [hb] at hunanswered

end

/-- A run begins with its first step. -/
theorem runSteps_of_step {s u : State} (h : step s = .next u) (k : Nat) : runSteps (k + 1) s = runSteps k u := by
  simp only [runSteps, h]

/-- By induction on the micro-operations that are left. -/
theorem reaches_rest_within_stepsLeft (s : State) (hinv : Inv s) (hturns : s.turns = []) (hbusy : s.PHASE ≠ 0#4)
    (hanswered : RunAnswered s) :
    ∃ (k : Nat) (t : State), k ≤ stepsLeft s ∧ runSteps k s = .next t ∧ t.PHASE = 0#4 ∧ (t.DONE = true ∨ t.ERR = true) := by
  induction hn : stepsLeft s using Nat.strong_induction_on generalizing s with
  | _ n ih =>
    subst hn
    obtain ⟨u, he⟩ := exec_answers (decodePhase s.PHASE) s
    have hrow := hanswered.takes_row hinv hbusy he
    have hstep : step s = .next u := (step_of_phase hturns rfl).trans he
    have hless := hrow.stepsLeft_lt hinv he
    by_cases hrest : u.PHASE = 0#4
    · exact ⟨1, u, by omega, runSteps_of_step hstep 0, hrest, hrow.result_at_rest hrest⟩
    · have hturns' : u.turns = [] := (exec_keeps_outside _ s u he).2.trans hturns
      obtain ⟨k, t, hk, hrun, hend⟩ := ih _ hless u (step_keeps_inv hinv hstep) hturns' hrest (hanswered.step he) rfl
      exact ⟨k + 1, t, by omega, (runSteps_of_step hstep k).trans hrun, hend⟩

/-- Settles O59: each step is one fewer to go, and at most 4 + 73 N are to go. -/
theorem everyBusyRunReachesRest : Obligations.EveryBusyRunReachesRest := by
  unfold Obligations.EveryBusyRunReachesRest
  intro s hinv hturns hbusy hanswered
  obtain ⟨k, t, hk, hend⟩ := reaches_rest_within_stepsLeft s hinv hturns hbusy hanswered
  exact ⟨k, t, hk.trans hinv.stepsLeft_le, hend⟩

/-! ## A run computes Hash (R200, R201) -/

/-- The canonical memory that answers `bytes` from offset `a` on. -/
def messageAt : Nat → List Byte → Memory
  | _, [] => []
  | a, b :: bytes => (a, b) :: messageAt (a + 1) bytes

theorem messageAt_risesFrom (a : Nat) (bytes : List Byte) (h : a + bytes.length ≤ 2 ^ 61) :
    (messageAt a bytes).risesFrom a = true := by
  induction bytes generalizing a with
  | nil => rfl
  | cons b bytes ih =>
    rw [List.length_cons] at h
    exact (Memory.risesFrom_cons _ _ _ _).mpr ⟨⟨le_refl a, by omega⟩, ih (a + 1) (by omega)⟩

theorem messageAt_read (a : Nat) (bytes : List Byte) (k : Nat) : (messageAt a bytes).read (a + k) = bytes[k]? := by
  induction bytes generalizing a k with
  | nil => rfl
  | cons b bytes ih =>
    rw [messageAt, Memory.read_cons]
    cases k with
    | zero => simp
    | succ k => rw [if_neg (by omega), Nat.add_left_comm, Nat.add_comm k, ih, List.getElem?_cons_succ]

theorem messageAt_answers (bytes : List Byte) : Answers (messageAt 0 bytes) bytes := fun k b hb => by
  simpa [hb] using messageAt_read 0 bytes k

theorem runSteps_keeps_inv {k : Nat} {s t : State} (h : Inv s) (hrun : runSteps k s = .next t) : Inv t := by
  induction k generalizing s with
  | zero => cases hrun; exact h
  | succ k ih =>
    obtain ⟨u, hu⟩ := step_answers s
    exact ih (step_keeps_inv h hu) ((runSteps_of_step hu k).symm.trans hrun)

/-- A run on a message: the invariant, no other turn to come, and the message answered. -/
structure OnMessage (bytes : List Byte) (s : State) : Prop where
  inv : Inv s
  turns : s.turns = []
  length : s.LEN.toNat = bytes.length
  answers : Answers s.msg bytes

/-- A run on a message stands at PHASE `p` with block index `i` and the first `n` blocks in the hash state. -/
structure RunAt (bytes : List Byte) (p : BitVec 4) (i n : Nat) (s : State) : Prop extends OnMessage bytes s where
  phase : s.PHASE = p
  index : s.I.toNat = i
  hash : Working.ofVector s.H = hashState bytes n

section
variable {s t : State} {bytes : List Byte} {i k : Nat} {ws : List Reg}

theorem OnMessage.run (h : OnMessage bytes s) (hrun : runSteps k s = .next t) (hframe : Frame ws s t)
    (hws : Reg.LEN ∉ ws) : OnMessage bytes t where
  inv := runSteps_keeps_inv h.inv hrun
  turns := hframe.turns.trans h.turns
  length := by
    have hLEN : t.LEN = s.LEN := hframe.same .LEN hws
    rw [hLEN, h.length]
  answers := fun k b hb => (hframe.read k).trans (h.answers k b hb)

/-- One micro-operation of a run. -/
theorem OnMessage.runSteps_one (h : OnMessage bytes s) {p : BitVec 4} (hp : s.PHASE = p)
    (he : exec (decodePhase p) s = .next t) : runSteps 1 s = .next t :=
  runSteps_of_step ((step_of_phase h.turns hp).trans he) 0

/-- CHECK, INIT and CNT bring the run to its first block. -/
theorem OnMessage.start (h : OnMessage bytes s) (hphase : s.PHASE = 1#4) (hlen : bytes.length < 2 ^ 61)
    (hbuf : bytes = [] ∨ s.MSGP = true) : ∃ t, runSteps 3 s = .next t ∧ RunAt bytes 4#4 1 0 t := by
  obtain ⟨-, -, -, hcheck⟩ := checkTestsThePreconditions
  have hlen' : s.LEN.toNat < 2 ^ 61 := h.length ▸ hlen
  have hmet : s.LEN = 0#64 ∨ s.MSGP = true := hbuf.imp_left fun hnil => BitVec.eq_of_toNat_eq (by simp [h.length, hnil])
  obtain ⟨t₁, he₁, hp₁, hframe₁⟩ := hcheck s hlen' hmet
  have hrun₁ := h.runSteps_one hphase he₁
  have h₁ := h.run hrun₁ hframe₁ (by decide)
  obtain ⟨t₂, he₂, hH₂, hp₂, hframe₂⟩ := initLoadsTheInitialHashValue.2 t₁
  have hrun₂ := h₁.runSteps_one hp₁ he₂
  have h₂ := h₁.run hrun₂ hframe₂ (by decide)
  obtain ⟨t₃, he₃, -, hI₃, -, -, hp₃, hframe₃⟩ := cntCountsTheBlocks.2 t₂ (h₂.length ▸ hlen)
  have hrun₃ := h₂.runSteps_one hp₂ he₃
  refine ⟨t₃, (runSteps_add 2 hrun₁).trans ((runSteps_add 1 hrun₂).trans hrun₃), ?_⟩
  have hH₃ : t₃.H = t₂.H := hframe₃.same .H (by decide)
  have hIV : t₂.H = IV := Vector.toList_inj.mp hH₂
  exact { h₂.run hrun₃ hframe₃ (by decide) with phase := hp₃, index := by rw [hI₃]; rfl, hash := by rw [hH₃, hIV, hashState] }

/-- Four PAD steps and the compression put block `i + 1` into the hash state. -/
theorem RunAt.compressed (h : RunAt bytes 4#4 (i + 1) i s) : ∃ t, runSteps 72 s = .next t ∧ RunAt bytes 13#4 (i + 1) (i + 1) t := by
  obtain ⟨u, hpad, hpu, hB, -, hframe⟩ := fourPadStepsBuildTheBlock s bytes h.inv h.turns h.phase h.length h.answers
  have hu := h.toOnMessage.run hpad hframe (by decide)
  obtain ⟨t, hcompress, hpt, hH, hframe'⟩ := oneBlockIsCompressed u hu.turns hpu
  have hblock : u.B.toList = block bytes (i + 1) := by
    refine List.ext_getElem (by simp [block]) fun k hk _ => ?_
    have hbyte := hB ⟨k, by simpa using hk⟩
    simpa [block, h.index] using hbyte
  have hIu : u.I = s.I := hframe.same .I (by decide)
  have hIt : t.I = u.I := hframe'.same .I (by decide)
  have hHu : u.H = s.H := hframe.same .H (by decide)
  refine ⟨t, (runSteps_add 68 hpad).trans hcompress, ?_⟩
  exact { hu.run hcompress hframe' (by decide) with
    phase := hpt
    index := by rw [hIt, hIu, h.index]
    hash := by rw [hH, hHu, h.hash, hblock, hashState] }

/-- N is the number of blocks of the message. -/
theorem RunAt.last_iff {n : Nat} {p : BitVec 4} (h : RunAt bytes p i n s) (hp : 4 ≤ p.toNat) :
    s.I = s.N ↔ i = blockCount bytes.length := by
  obtain ⟨hN, -, -⟩ := h.inv.block_index (by rwa [h.phase])
  rw [← BitVec.toNat_inj, hN, h.index, h.length]

/-- NEXT goes on to the next block while one is left. -/
theorem RunAt.next (h : RunAt bytes 13#4 (i + 1) (i + 1) s) (hmore : i + 1 < blockCount bytes.length) :
    ∃ t, runSteps 1 s = .next t ∧ RunAt bytes 4#4 (i + 2) (i + 1) t := by
  have hne : s.I ≠ s.N := mt (h.last_iff (by decide)).mp hmore.ne
  obtain ⟨hN, -, -⟩ := h.inv.block_index (by simp [h.phase])
  have hfits : i + 1 < s.N.toNat := by rwa [hN, h.length]
  obtain ⟨-, -, hnext⟩ := nextAdvancesTheBlockIndex
  obtain ⟨t, he, hI, hp, hframe⟩ := hnext s hne
  have hrun := h.runSteps_one h.phase he
  have hH : t.H = s.H := hframe.same .H (by decide)
  refine ⟨t, hrun, ?_⟩
  exact { h.toOnMessage.run hrun hframe (by decide) with
    phase := hp
    index := by
      rw [hI, BitVec.toNat_add, h.index]
      simp
      omega
    hash := by rw [hH, h.hash] }

/-- After `i` further blocks the hash state holds `i + 1` of them. -/
theorem RunAt.blocks (h : RunAt bytes 4#4 1 0 s) (hi : i < blockCount bytes.length) :
    ∃ t, runSteps (73 * i + 72) s = .next t ∧ RunAt bytes 13#4 (i + 1) (i + 1) t := by
  induction i with
  | zero => simpa using h.compressed
  | succ i ih =>
    obtain ⟨t₁, hrun₁, h₁⟩ := ih (by omega)
    obtain ⟨t₂, hrun₂, h₂⟩ := h₁.next hi
    obtain ⟨t, hrun, ht⟩ := h₂.compressed
    exact ⟨t, (runSteps_add 73 hrun₁).trans ((runSteps_add 72 hrun₂).trans hrun), ht⟩

/-- FINAL puts the bytes of the eight words into D in order (R170). -/
theorem digest_of_hash (X : Vector Word 8) :
    (tabulate 32 fun i => byteOf X[i.val / 4] (i.val % 4)).toList =
      (Working.ofVector X).toList.flatMap fun w => (List.range 4).map (byteOf w) := by
  rw [toList_tabulate]
  rfl

/-- The run rests with the digest of the message. -/
structure Finished (bytes : List Byte) (t : State) : Prop where
  phase : t.PHASE = 0#4
  done : t.DONE = true
  err : t.ERR = false
  digest : t.D.toList = wholeHash bytes

/-- NEXT after the last block, and FINAL. -/
theorem RunAt.finish (h : RunAt bytes 13#4 (blockCount bytes.length) (blockCount bytes.length) s) :
    ∃ u t, runSteps 1 s = .next u ∧ u.PHASE = 14#4 ∧ runSteps 1 u = .next t ∧ Finished bytes t := by
  obtain ⟨-, hlast, -⟩ := nextAdvancesTheBlockIndex
  obtain ⟨u, he, hp, hframe⟩ := hlast s ((h.last_iff (by decide)).mpr rfl)
  have hrun := h.runSteps_one h.phase he
  have hu := h.toOnMessage.run hrun hframe (by decide)
  have hH : u.H = s.H := hframe.same .H (by decide)
  obtain ⟨-, herr, -⟩ := hu.inv.result_clear_of_busy (by simp [hp])
  refine ⟨u, _, hrun, hp, hu.runSteps_one hp rfl, rfl, rfl, herr, ?_⟩
  rw [State.goto_D, digest_of_hash, hH, h.hash, wholeHash]

/-- The whole run from CHECK: 3 + 73 N micro-operations to FINAL, and FINAL. -/
theorem OnMessage.finishes (h : OnMessage bytes s) (hphase : s.PHASE = 1#4) (hlen : bytes.length < 2 ^ 61)
    (hbuf : bytes = [] ∨ s.MSGP = true) :
    ∃ u t, runSteps (3 + 73 * blockCount bytes.length) s = .next u ∧ u.PHASE = 14#4 ∧
      runSteps (4 + 73 * blockCount bytes.length) s = .next t ∧ Finished bytes t := by
  obtain ⟨n, hn⟩ : ∃ n, blockCount bytes.length = n + 1 := ⟨_, by unfold blockCount; exact Nat.add_right_comm _ _ _⟩
  obtain ⟨t₁, hrun₁, h₁⟩ := h.start hphase hlen hbuf
  obtain ⟨t₂, hrun₂, h₂⟩ := h₁.blocks (i := n) (by omega)
  rw [← hn] at h₂
  obtain ⟨u, t, hnext, hp, hfinal, ht⟩ := h₂.finish
  have hrun : runSteps (3 + 73 * blockCount bytes.length) s = .next u := by
    rw [show 3 + 73 * blockCount bytes.length = 3 + (73 * n + 72 + 1) by omega, runSteps_add _ hrun₁, runSteps_add _ hrun₂,
      hnext]
  refine ⟨u, t, hrun, hp, ?_, ht⟩
  rw [show 4 + 73 * blockCount bytes.length = 3 + 73 * blockCount bytes.length + 1 by omega, runSteps_add _ hrun, hfinal]

end

/-- Without a canonical memory: a second run with one, on the same inputs, goes through the same phases and results (R172). -/
theorem runFromCheck_finishes {s : State} {bytes : List Byte} (hphase : s.PHASE = 1#4) (hturns : s.turns = [])
    (hdone : s.DONE = false) (herr : s.ERR = false) (hcode : s.ERRCODE = 0#2) (hlength : s.LEN.toNat = bytes.length)
    (hlen : bytes.length < 2 ^ 61) (hbuf : bytes = [] ∨ s.MSGP = true) (hanswers : Answers s.msg bytes) :
    ∃ u t, runSteps (3 + 73 * blockCount bytes.length) s = .next u ∧ u.PHASE = 14#4 ∧
      runSteps (4 + 73 * blockCount bytes.length) s = .next t ∧ Finished bytes t := by
  have hcanonical : (messageAt 0 bytes).wf = true := messageAt_risesFrom 0 bytes (by omega)
  have hinv : Inv { s with msg := messageAt 0 bytes } := by constructor <;> simp [hphase, hdone, herr, hcode, hcanonical]
  have hon : OnMessage bytes { s with msg := messageAt 0 bytes } := ⟨hinv, hturns, hlength, messageAt_answers bytes⟩
  obtain ⟨u, t, hu, hpu, ht, hfin⟩ := hon.finishes hphase hlen hbuf
  have hread : ∀ a < s.LEN.toNat, s.msg.read a = (messageAt 0 bytes).read a := fun a ha => by
    have hbyte : bytes[a]? = some bytes[a] := List.getElem?_eq_getElem (hlength ▸ ha)
    rw [hanswers a _ hbyte, messageAt_answers bytes a _ hbyte]
  have halike := digestDependsOnlyOnTheInputs s { s with msg := messageAt 0 bytes } hphase hphase hturns hturns hdone hdone
    herr herr rfl rfl rfl hread
  obtain ⟨u', v, hu', hv, hpu', -⟩ := halike (3 + 73 * blockCount bytes.length)
  obtain rfl : v = u := by injection hv.symm.trans hu
  obtain ⟨t', w, ht', hw, hpt', hdt', het', -, hDt'⟩ := halike (4 + 73 * blockCount bytes.length)
  obtain rfl : w = t := by injection hw.symm.trans ht
  have hdone' : t'.DONE = true := hdt'.trans hfin.done
  exact ⟨u', t', hu', hpu'.trans hpu, ht',
    ⟨hpt'.trans hfin.phase, hdone', het'.trans hfin.err, (hDt' hdone').symm ▸ hfin.digest⟩⟩

/-- A CORE at REST with no other turn to come stays as it is (R195). -/
theorem runSteps_at_rest {s : State} (hphase : s.PHASE = 0#4) (hturns : s.turns = []) (k : Nat) : runSteps k s = .next s := by
  induction k with
  | zero => rfl
  | succ k ih => rw [runSteps_of_step (step_of_phase hturns hphase), ih]

/-- With no other turn to come, the sequencer's steps add none. -/
theorem runSteps_without_turns {s : State} (hturns : s.turns = []) (k : Nat) : ∃ t, runSteps k s = .next t ∧ t.turns = [] := by
  induction k with
  | zero => exact ⟨s, rfl, hturns⟩
  | succ k ih =>
    obtain ⟨u, hrun, hu⟩ := ih
    obtain ⟨t, he⟩ := exec_answers (decodePhase u.PHASE) u
    exact ⟨t, runSteps_succ hrun ((step_of_phase hu rfl).trans he), (exec_keeps_outside _ u t he).2.trans hu⟩

/-- A run that is busy after `n` steps was busy all along, since REST is not left again. -/
theorem busy_before {s u : State} {n j : Nat} (hturns : s.turns = []) (hrun : runSteps n s = .next u) (hbusy : u.PHASE ≠ 0#4)
    (hj : j ≤ n) : ∃ t, runSteps j s = .next t ∧ t.PHASE ≠ 0#4 := by
  obtain ⟨t, ht, hnil⟩ := runSteps_without_turns hturns j
  refine ⟨t, ht, fun hrest => hbusy ?_⟩
  obtain ⟨d, rfl⟩ := Nat.exists_eq_add_of_le hj
  rw [runSteps_add d ht, runSteps_at_rest hrest hnil] at hrun
  injection hrun with htu
  exact htu ▸ hrest

/-- Settles O58: START leads to CHECK, the run from there ends after 4 + 73 N micro-operations with the digest, and it is
busy before the last of them, so at each. -/
theorem runComputesTheHash : Obligations.RunComputesTheHash := by
  unfold Obligations.RunComputesTheHash
  intro s bytes v m hrest hturns hcommand hlength hlen hbuf hanswers
  obtain ⟨-, -, -, -, hwritten⟩ := stepRunsTheSelectedInstruction
  have hdecode : decode (.cmd (v.setWidth 8)) = .ok (.start m) := by rw [decode, hcommand, Command.toDecoded]
  have hstep : step s = .next _ := (hwritten s v _ [] hturns hdecode).trans (if_pos hrest)
  obtain ⟨u, t, hu, hpu, ht, hfin⟩ := runFromCheck_finishes
    (s := ({ { s with turns := [] }.clearResult with MSGP := m }.goto 1#4)) rfl rfl rfl rfl rfl hlength hlen hbuf hanswers
  have hstart : ∀ k, runSteps (1 + k) s = runSteps k _ := fun k => Nat.add_comm 1 k ▸ runSteps_of_step hstep k
  refine ⟨fun j hj => ?_, t, (hstart _).trans ht, hfin.phase, hfin.done, hfin.err, hfin.digest⟩
  rw [hstart j]
  exact busy_before rfl hu (by simp [hpu]) (by omega)

end Sys2Proof.Machine

/-! # Proofs about exceptions (60_exceptions.md) -/

namespace Sys2Proof.Machine

/-- Settles O6: the turn in front runs an instruction, and each answers, or it has an effect of its own. -/
theorem everyStepAnswersANextState : Obligations.EveryStepAnswersANextState := by
  unfold Obligations.EveryStepAnswersANextState
  exact step_answers

/-! ## BCOPY's wait (R229) -/

/-- Where the offsets do not wrap, a row of reads with an unanswered offset gives BCOPY no step. -/
theorem execBcopy_waits {s : State} (hwrap : s.OFF.toNat + copyCount s ≤ 2 ^ 61)
    (hunanswered : ∃ k : Nat, k < copyCount s ∧ s.msg.read (s.OFF.toNat + k) = none) : execBcopy s = .next s := by
  have hnone : readFrom s.msg s.OFF 0 (copyCount s) = none := (readFrom_none_iff _ _ _ _ hwrap).mpr hunanswered
  rw [execBcopy, hnone]

/-- A CLEAR by the host or the reset input leads to REST, whatever the CORE is doing (R183, R240). -/
theorem step_to_rest {s : State} {rest : List Turn}
    (hturns : s.turns = .hostWrite 0 0x02#256 :: rest ∨ s.turns = .reset :: rest) :
    ∃ t : State, step s = .next t ∧ t.PHASE = 0#4 := by
  obtain ⟨-, -, -, -, hcommand⟩ := stepRunsTheSelectedInstruction
  rcases hturns with hclear | hreset
  · exact ⟨_, hcommand s _ (.clear false) rest hclear (by decide), rfl⟩
  · exact ⟨_, step_of_reset (s.turn_of_cons _ _ hreset), rfl⟩

/-- Settles O27: OFF plus the count is at most LEN, so no offset wraps and the unanswered byte is one of BCOPY's reads; PHASE 5
is busy, and CLEAR and reset lead to REST from there as from anywhere. -/
theorem bcopyWaitsForAnUnansweredRead : Obligations.BcopyWaitsForAnUnansweredRead := by
  unfold Obligations.BcopyWaitsForAnUnansweredRead
  intro s hlen hoff hphase hunanswered
  have hwrap : s.OFF.toNat + copyCount s ≤ 2 ^ 61 := by unfold copyCount; omega
  have hwaits : exec .bcopy s = .next s := execBcopy_waits hwrap hunanswered
  have hbusy : s.status.getLsbD 0 = true := by rw [s.status_bit0, s.busy_iff, hphase]; decide
  exact ⟨hwaits, hbusy, fun hturns => (step_of_phase hturns hphase).trans hwaits, fun _ => step_to_rest⟩

end Sys2Proof.Machine

/-! # Proofs about reset and hazards (70_reset_and_hazards.md) -/

namespace Sys2Proof.Machine

/-- With PHASE at REST and every flag clear, all of the STATUS word's fields are 0 (R41), BUSY included (R40). -/
theorem State.status_eq_zero {s : State} (hphase : s.PHASE = 0#4) (hdone : s.DONE = false) (herr : s.ERR = false)
    (hrej : s.REJ = false) (hcode : s.ERRCODE = 0#2) : s.status = 0x0000#16 := by
  rw [State.status, State.busy, hphase, hdone, herr, hrej, hcode]
  decide

/-- The reset input leaves STATUS at its reset value, whatever it was (R240). -/
@[simp] theorem State.resetInput_status (s : State) : s.resetInput.status = 0x0000#16 :=
  State.status_eq_zero s.resetInput_PHASE s.resetInput_DONE s.resetInput_ERR s.resetInput_REJ s.resetInput_ERRCODE

/-- Settles O8: the step takes the reset turn from the list and is the reset input, which writes the control state and LEN and
neither the message nor the turns left. -/
theorem resetInputFromAnyState : Obligations.ResetInputFromAnyState := by
  unfold Obligations.ResetInputFromAnyState
  intro s rest hturns
  have hstep : step s = .next s.popTurn.resetInput := step_of_reset (s.turn_of_cons _ _ hturns)
  have hrest : s.popTurn.turns = rest := by rw [s.popTurn_turns, hturns, List.tail_cons]
  exact ⟨_, hstep, rfl, rfl, rfl, rfl, rfl, rfl, rfl, s.popTurn.resetInput_status, fun _ => rfl, hrest⟩

end Sys2Proof.Machine
